-- ==== Sys2Proof/Word.lean ====
section
/-! DEFINITION. The words of the engine: bytes, 16-bit samples and 32-bit host registers (00_scope section 5). -/

namespace Sys2Proof

/-- An unsigned 8-bit value. -/
abbrev Byte := BitVec 8

/-- A 16-bit unsigned sample, the unit of `IMG` (10_state R29). -/
abbrev Word16 := BitVec 16

/-- The widest host register (20_memory R40: "up to 32 bits"). -/
abbrev Word32 := BitVec 32

end Sys2Proof
end

