-- ==== Sys2Proof/Machine/Codec.lean ====
section
/-! DEFINITION. The checksum codec as pure functions of bytes: the command checksum of 40_checksum R100, the one-byte
actions of the checksum unit of R101, and the block LRC of R104. -/

namespace Sys2Proof.Machine

/-- `NOT8(b)` (00_scope section 5). -/
def not8 (b : Byte) : Byte := ~~~b

/-- `compute(s)`, partial: it has no value on the empty sequence (40_checksum R100, R103). -/
def compute : List Byte → Option Byte
  | [] => none
  | b :: rest => some (rest.foldl (fun c b => (c ^^^ not8 b) &&& 0x7F#8) (not8 b &&& 0x7F#8))

/-- The low seven bits of `NOT8(b)`, which the checksum unit absorbs (40_checksum R101). -/
def ckBits (b : Byte) : BitVec 7 := (not8 b).setWidth 7

/-- `lrc(p)`, the running XOR of a block's payload (40_checksum R104). -/
def lrc (p : List Byte) : Byte := p.foldl (fun acc b => acc ^^^ b) 0#8

end Sys2Proof.Machine
end

