-- ==== Sys2Proof/Syntax.lean ====
section
/-! DEFINITION. The instructions: one constructor for each row of spec/opcode_table.json. The first fourteen are the host
operation codes (30_encoding R80), which have no operand field (R81); the others are the wire frames the engine's
sequencer writes (R71), of which only the exposure frame has operand fields (R64). -/

namespace Sys2Proof

/-- One constructor per row of spec/opcode_table.json. -/
inductive Instr where
  -- host operations, 30_encoding R80
  | cksum | send | setbaud | startexp | readimg | decodePix
  | ping | shopen | shclose | shdeen | abortexp | fwquery | heater | chop
  -- wire frames, 30_encoding R71
  | frameE | frameO | frameC | frameK | frameA | frameV
  | frameG0 | frameG1 | frameU0 | frameU1
  | frameB0 | frameB1 | frameB2 | frameB3 | frameB4 | frameB5 | frameB6
  | frameTest | frameKconf
  /-- The exposure frame `T`: ticks, a 24-bit number, and the light flag (30_encoding R64). -/
  | frameT (ticks : Nat) (light : Bool)
  | frameX | frameR | frameS
deriving DecidableEq, Repr

end Sys2Proof
end

