-- ==== Sys2Proof/WellFormed.lean ====
section
/-! DEFINITION. Which instructions are well formed: the exposure frame's tick count must be representable in 24 bits
(30_encoding R67; 43_exposure R130). No other instruction has an operand field. -/

namespace Sys2Proof

/-- Every operand fits its field of the encoding. -/
def Instr.wellFormed : Instr → Bool
  | .frameT ticks _ => decide (ticks < 2 ^ 24)
  | .cksum | .send | .setbaud | .startexp | .readimg | .decodePix => true
  | .ping | .shopen | .shclose | .shdeen | .abortexp | .fwquery | .heater | .chop => true
  | .frameE | .frameO | .frameC | .frameK | .frameA | .frameV => true
  | .frameG0 | .frameG1 | .frameU0 | .frameU1 => true
  | .frameB0 | .frameB1 | .frameB2 | .frameB3 | .frameB4 | .frameB5 | .frameB6 => true
  | .frameTest | .frameKconf | .frameX | .frameR | .frameS => true

end Sys2Proof
end

