-- ==== Sys2Proof/Decode.lean ====
section
/-! DEFINITION. The decoder, total on any bytes and rejecting by name, and the encoder, both from the tables of
30_encoding R61 to R64, R71 and R80. One byte is a host operation word (R81); two or more are a wire frame, byte 0
first, whose last byte is the checksum of the bytes before it (R60). -/

namespace Sys2Proof

/-- Why some bytes are no instruction. -/
inductive DecodeError where
  /-- There is no byte. -/
  | empty
  /-- A reserved host operation code (30_encoding R82). -/
  | reservedCode (op : Byte)
  /-- The last byte is not the checksum of the payload (30_encoding R60). -/
  | badChecksum (payload : List Byte) (last : Byte)
  /-- The payload is none of the table of 30_encoding R71. -/
  | unknownFrame (payload : List Byte)
deriving DecidableEq, Repr

/-- The host operation word (30_encoding R80, R81). -/
def decodeHost (op : Byte) : Except DecodeError Instr :=
  match op with
  | 0x01#8 => .ok .cksum
  | 0x02#8 => .ok .send
  | 0x03#8 => .ok .setbaud
  | 0x04#8 => .ok .startexp
  | 0x05#8 => .ok .readimg
  | 0x06#8 => .ok .decodePix
  | 0x10#8 => .ok .ping
  | 0x11#8 => .ok .shopen
  | 0x12#8 => .ok .shclose
  | 0x13#8 => .ok .shdeen
  | 0x14#8 => .ok .abortexp
  | 0x15#8 => .ok .fwquery
  | 0x16#8 => .ok .heater
  | 0x17#8 => .ok .chop
  | op => .error (.reservedCode op)

/-- Format `W2`: the command byte stands alone (30_encoding R61). -/
def decodeW2 (c : Byte) : Except DecodeError Instr :=
  match c with
  | 0x45#8 => .ok .frameE
  | 0x4F#8 => .ok .frameO
  | 0x43#8 => .ok .frameC
  | 0x4B#8 => .ok .frameK
  | 0x41#8 => .ok .frameA
  | 0x56#8 => .ok .frameV
  | 0x6B#8 => .ok .frameKconf
  | 0x58#8 => .ok .frameX
  | 0x52#8 => .ok .frameR
  | 0x53#8 => .ok .frameS
  | c => .error (.unknownFrame [c])

/-- Format `W3`: the command byte and one argument byte (30_encoding R62, R69, R70). -/
def decodeW3 (c a : Byte) : Except DecodeError Instr :=
  match c, a with
  | 0x67#8, 0x00#8 => .ok .frameG0
  | 0x67#8, 0x01#8 => .ok .frameG1
  | 0x55#8, 0x00#8 => .ok .frameU0
  | 0x55#8, 0x01#8 => .ok .frameU1
  | 0x42#8, 0x30#8 => .ok .frameB0
  | 0x42#8, 0x31#8 => .ok .frameB1
  | 0x42#8, 0x32#8 => .ok .frameB2
  | 0x42#8, 0x33#8 => .ok .frameB3
  | 0x42#8, 0x34#8 => .ok .frameB4
  | 0x42#8, 0x35#8 => .ok .frameB5
  | 0x42#8, 0x36#8 => .ok .frameB6
  | c, a => .error (.unknownFrame [c, a])

/-- Formats `W5` and `W7`, the other payloads (30_encoding R63, R64, R67, R68). -/
def decodeLong (payload : List Byte) : Except DecodeError Instr :=
  match payload with
  | [c, t2, t1, t0] =>
    if [c, t2, t1, t0] = [0x54#8, 0x65#8, 0x73#8, 0x74#8] then .ok .frameTest
    else .error (.unknownFrame payload)
  | [c, t2, t1, t0, y1, y0] =>
    if c = 0x54#8 ∧ y1 = 0x00#8 ∧ (y0 = 0x00#8 ∨ y0 = 0x01#8) then
      .ok (.frameT (t2.toNat * 65536 + t1.toNat * 256 + t0.toNat) (y0 == 0x01#8))
    else .error (.unknownFrame payload)
  | _ => .error (.unknownFrame payload)

/-- A frame without its checksum byte (30_encoding R71). -/
def decodePayload (payload : List Byte) : Except DecodeError Instr :=
  match payload with
  | [c] => decodeW2 c
  | [c, a] => decodeW3 c a
  | _ => decodeLong payload

/-- A whole frame: the checksum is recomputed and must agree (30_encoding R60, R64). -/
def decodeFrame (bytes : List Byte) : Except DecodeError Instr :=
  let payload := bytes.dropLast
  let last := bytes.getLastD 0#8
  if Machine.compute payload = some last then decodePayload payload
  else .error (.badChecksum payload last)

/-- The bytes of one instruction. -/
def decode (bytes : List Byte) : Except DecodeError Instr :=
  match bytes with
  | [] => .error .empty
  | [op] => decodeHost op
  | _ => decodeFrame bytes

/-- A payload and its checksum byte (30_encoding R60). -/
def framed (payload : List Byte) : List Byte := payload ++ (Machine.compute payload).toList

/-- Byte `k` of a number, byte 0 the least significant. -/
def byteOf (n k : Nat) : Byte := BitVec.ofNat 8 (n / 256 ^ k)

/-- The bytes of an instruction, in the order they are written (30_encoding R61 to R64, R71, R80). -/
def encode : Instr → List Byte
  | .cksum => [0x01#8]
  | .send => [0x02#8]
  | .setbaud => [0x03#8]
  | .startexp => [0x04#8]
  | .readimg => [0x05#8]
  | .decodePix => [0x06#8]
  | .ping => [0x10#8]
  | .shopen => [0x11#8]
  | .shclose => [0x12#8]
  | .shdeen => [0x13#8]
  | .abortexp => [0x14#8]
  | .fwquery => [0x15#8]
  | .heater => [0x16#8]
  | .chop => [0x17#8]
  | .frameE => framed [0x45#8]
  | .frameO => framed [0x4F#8]
  | .frameC => framed [0x43#8]
  | .frameK => framed [0x4B#8]
  | .frameA => framed [0x41#8]
  | .frameV => framed [0x56#8]
  | .frameG0 => framed [0x67#8, 0x00#8]
  | .frameG1 => framed [0x67#8, 0x01#8]
  | .frameU0 => framed [0x55#8, 0x00#8]
  | .frameU1 => framed [0x55#8, 0x01#8]
  | .frameB0 => framed [0x42#8, 0x30#8]
  | .frameB1 => framed [0x42#8, 0x31#8]
  | .frameB2 => framed [0x42#8, 0x32#8]
  | .frameB3 => framed [0x42#8, 0x33#8]
  | .frameB4 => framed [0x42#8, 0x34#8]
  | .frameB5 => framed [0x42#8, 0x35#8]
  | .frameB6 => framed [0x42#8, 0x36#8]
  | .frameTest => framed [0x54#8, 0x65#8, 0x73#8, 0x74#8]
  | .frameKconf => framed [0x6B#8]
  | .frameT ticks light =>
    framed [0x54#8, byteOf ticks 2, byteOf ticks 1, byteOf ticks 0, 0x00#8, if light then 0x01#8 else 0x00#8]
  | .frameX => framed [0x58#8]
  | .frameR => framed [0x52#8]
  | .frameS => framed [0x53#8]

/-- The `k` bytes of a word of spec/opcode_table.json, byte 0 leftmost, that is most significant (30_encoding,
opening paragraph; log 4). -/
def tableBytes : Nat → Nat → List Byte
  | 0, _ => []
  | k + 1, w => byteOf w k :: tableBytes k w

/-- The table gives the checksum bits of row FRAME_T no value and says that they are "not a free field: a decoder must
recompute it": a table word of that row is completed before it is decoded (log 5). Bit 7 of the byte stays. -/
def completeTableBytes (bytes : List Byte) : List Byte :=
  match bytes with
  | [c, t2, t1, t0, y1, y0, last] =>
    if c = 0x54#8 then
      let payload := [c, t2, t1, t0, y1, y0]
      payload ++ ((Machine.compute payload).map (fun k => (last &&& 0x80#8) ||| k)).toList
    else bytes
  | _ => bytes

/-- The instruction the decoder reads from a word of spec/opcode_table.json, numbered as the table numbers it. -/
def decodeTableWord (nbits w : Nat) : Option Instr :=
  (decode (completeTableBytes (tableBytes (nbits / 8) w))).toOption

end Sys2Proof
end

