-- ==== Sys2Proof/Config.lean ====
section
/-! DEFINITION. What an implementation fixes and what the spec leaves free: the parameters of 00_scope R7 and the
free values. A constant declared `opaque` has no body: nothing can be proved of its value. -/

namespace Sys2Proof

/-- The enumerated set of line rates, in ascending order (00_scope R6; 10_state R22). -/
inductive Rate where
  | r9600 | r19200 | r38400 | r57600 | r115200 | r230400 | r460800
deriving DecidableEq, Repr, Inhabited

/-- Which plane holds the low byte of a sample (00_scope R7, `PIX_ORDER`; 45_decoder R161). -/
inductive PixOrder where
  | aLow | aHigh
deriving DecidableEq, Repr, Inhabited

/-- One answer of the environment to one Transport call: `ok` answers a `TWrite` or a `TSetBaud`, the bytes answer a
`TRead`, which takes at most the number it asked for (20_memory R46 to R48). -/
structure Answer where
  ok : Bool
  bytes : List Byte
deriving DecidableEq, Repr, Inhabited

namespace Config

/-- `TXBUF_BYTES`, decided by the spec (92_eei_decisions D23). -/
def txBufBytes : Nat := 16

/-- `RXBUF_BYTES`, decided by the spec (92_eei_decisions D23). -/
def rxBufBytes : Nat := 16

/-- `PIX_ORDER`, OPEN (92_eei_decisions D5; log 13). -/
opaque pixOrder : PixOrder

/-- `BAUD_INIT`, OPEN: the rate the host opened the Transport with (92_eei_decisions D30; log 14). -/
opaque baudInit : Rate

/-- The environment's answer to the `n`-th Transport call that no scripted answer covers: a free draw
(00_scope R8; log 3). -/
opaque answer (n : Nat) : Answer

/-- What a byte of `RAW` that nothing defines reads as: a free value (10_state R34; log 17). -/
opaque rawContent (epoch address : Nat) : Byte

/-- What a byte of the block in which a READIMG ended by error holds: a free value (44_transfer R154; U20; log 12). -/
opaque lostBlock (epoch address : Nat) : Byte

/-- What a word of `IMG` that nothing has written reads as: a free value (10_state R34; log 17). -/
opaque imgContent (epoch address : Nat) : Word16

/-- A byte of `RXBUF` at or above the number of bytes read: a free value (10_state R18; log 11). -/
opaque rxContent (epoch index : Nat) : Byte

end Config
end Sys2Proof
end

