-- ==== Sys2Proof/Machine/Memory.lean ====
section
/-! DEFINITION. The two memories the host and the engine share, `RAW` (bytes) and `IMG` (16-bit words), as lists of
address and content in one canonical form: addresses strictly rising (20_memory R40). An unlisted address holds no
defined value (10_state R34), so no entry can equal what an unlisted address reads as. -/

namespace Sys2Proof.Machine

/-- A memory of units of `w` bits: what is defined of it, by address. `Memory 8` is a list of `Host.Cell`. -/
abbrev Memory (w : Nat) := List (Nat × BitVec w)

/-- The canonical form: addresses strictly rising. -/
def Memory.wf {w : Nat} : Memory w → Bool
  | [] => true
  | [_] => true
  | c :: d :: m => decide (c.1 < d.1) && Memory.wf (d :: m)

/-- Every listed address exists in a memory of `size` units. -/
def Memory.within {w : Nat} (size : Nat) (m : Memory w) : Bool := m.all (fun c => decide (c.1 < size))

/-- The defined content of address `a`, if it has one. -/
def Memory.lookup {w : Nat} (m : Memory w) (a : Nat) : Option (BitVec w) := (m.find? (fun c => c.1 == a)).map (·.2)

/-- The cells that hold the units `vs` at `a`, `a + 1`, ... -/
def Memory.cellsFrom {w : Nat} : Nat → List (BitVec w) → Memory w
  | _, [] => []
  | a, v :: vs => (a, v) :: Memory.cellsFrom (a + 1) vs

/-- `cellsFrom` in constant stack, what compiled code runs. -/
def Memory.cellsFromTR {w : Nat} (a : Nat) (vs : List (BitVec w)) : Memory w := go a vs []
where
  /-- The cells so far are in `acc`, last first. -/
  go : Nat → List (BitVec w) → Memory w → Memory w
    | _, [], acc => acc.reverse
    | a, v :: vs, acc => go (a + 1) vs ((a, v) :: acc)

theorem Memory.cellsFromTR_go {w : Nat} (vs : List (BitVec w)) :
    ∀ (a : Nat) (acc : Memory w), Memory.cellsFromTR.go a vs acc = acc.reverse ++ Memory.cellsFrom a vs := by
  induction vs with
  | nil => intro a acc; simp [Memory.cellsFromTR.go, Memory.cellsFrom]
  | cons v vs ih => intro a acc; simp [Memory.cellsFromTR.go, Memory.cellsFrom, ih]

@[csimp] theorem Memory.cellsFrom_eq_cellsFromTR : @Memory.cellsFrom = @Memory.cellsFromTR := by
  funext w a vs
  simp [Memory.cellsFromTR, Memory.cellsFromTR_go]

/-- `MemWrite(space, a, len(vs), vs)` (00_scope section 5). -/
def Memory.put {w : Nat} (m : Memory w) (a : Nat) (vs : List (BitVec w)) : Memory w :=
  let stop := a + vs.length
  m.filter (fun c => decide (c.1 < a)) ++ Memory.cellsFrom a vs ++ m.filter (fun c => decide (stop ≤ c.1))

/-- The contents of `a`, `a + 1`, ..., `n` of them, from a memory whose listed addresses are all at or above `a`:
a listed one its content, an unlisted one `free` of it. -/
def Memory.scan {w : Nat} (free : Nat → BitVec w) : Nat → Nat → Memory w → List (BitVec w)
  | 0, _, _ => []
  | n + 1, a, [] => free a :: Memory.scan free n (a + 1) []
  | n + 1, a, c :: m =>
    if c.1 = a then c.2 :: Memory.scan free n (a + 1) m else free a :: Memory.scan free n (a + 1) (c :: m)

/-- `scan` in constant stack, what compiled code runs. -/
def Memory.scanTR {w : Nat} (free : Nat → BitVec w) (n a : Nat) (m : Memory w) : List (BitVec w) := go n a m []
where
  /-- The contents so far are in `acc`, last first. -/
  go : Nat → Nat → Memory w → List (BitVec w) → List (BitVec w)
    | 0, _, _, acc => acc.reverse
    | n + 1, a, [], acc => go n (a + 1) [] (free a :: acc)
    | n + 1, a, c :: m, acc =>
      if c.1 = a then go n (a + 1) m (c.2 :: acc) else go n (a + 1) (c :: m) (free a :: acc)

theorem Memory.scanTR_go {w : Nat} (free : Nat → BitVec w) (n : Nat) :
    ∀ (a : Nat) (m : Memory w) (acc : List (BitVec w)),
      Memory.scanTR.go free n a m acc = acc.reverse ++ Memory.scan free n a m := by
  induction n with
  | zero => intro a m acc; simp [Memory.scanTR.go, Memory.scan]
  | succ n ih =>
    intro a m acc
    cases m with
    | nil => simp [Memory.scanTR.go, Memory.scan, ih]
    | cons c m =>
      by_cases h : c.1 = a
      · simp [Memory.scanTR.go, Memory.scan, ih, h]
      · simp [Memory.scanTR.go, Memory.scan, ih, h]

@[csimp] theorem Memory.scan_eq_scanTR : @Memory.scan = @Memory.scanTR := by
  funext w free n a m
  simp [Memory.scanTR, Memory.scanTR_go]

/-- `MemRead(space, a, n)` (00_scope section 5), in one pass over a memory in canonical form. -/
def Memory.read {w : Nat} (free : Nat → BitVec w) (m : Memory w) (a n : Nat) : List (BitVec w) :=
  Memory.scan free n a (m.filter (fun c => decide (a ≤ c.1)))

/-- A set of addresses as ranges: a pair is the addresses from its first number up to, not including, its second. -/
abbrev Ranges := List (Nat × Nat)

/-- Address `a` is in the set. -/
def Ranges.has (g : Ranges) (a : Nat) : Bool := g.any (fun x => decide (x.1 ≤ a) && decide (a < x.2))

/-- The canonical form: no range is empty, they rise, and no two of them touch. -/
def Ranges.wf : Ranges → Bool
  | [] => true
  | [x] => decide (x.1 < x.2)
  | x :: y :: g => decide (x.1 < x.2) && decide (x.2 < y.1) && Ranges.wf (y :: g)

/-- The set without the `n` addresses from `a` on. -/
def Ranges.remove (g : Ranges) (a n : Nat) : Ranges :=
  g.flatMap (fun x => [(x.1, min x.2 a), (max x.1 (a + n), x.2)].filter (fun y => decide (y.1 < y.2)))

/-- No address below `n` is in the set. -/
def Ranges.noneBelow (g : Ranges) (n : Nat) : Bool := g.all (fun x => decide (n ≤ x.1) || decide (x.2 ≤ x.1))

end Sys2Proof.Machine
end

