-- ==== Sys2Proof/Machine/State.lean ====
section
/-! DEFINITION. The state of the engine as plain data: every piece of 10_state, the link and the host port as far as
the spec gives them a state, and the model's own input lists and counters (INVENTORY.md, "State"). -/

namespace Sys2Proof.Machine

/-- The sequencer's states (10_state R14). -/
inductive Seq where
  | idle | fatal
  | ckRun
  | sdTx | sdRx
  | dcTx | dcRx
  | bnCheck | bnCmd | bnRate | bnAck | bnTest | bnReply | bnConf | bnRoll
  | exTx | exWait
  | riX | riSync | riBlk | riAck | riRetry | riAbort | riEpi | riDec
  | deRun
deriving DecidableEq, Repr

/-- The error kinds (60_exceptions R191). -/
inductive ErrKind where
  | communicationTimeout | checksumMismatch | blockTransferAborted | invalidBaudRate | baudNegotiationFailed
  | exposureTimedOut | transportFatal | cancelled | invalidOperation | overrun
deriving DecidableEq, Repr

/-- `STATUS` (10_state R12). -/
structure Status where
  busy : Bool
  done : Bool
  ok : Bool
  fatal : Bool
deriving DecidableEq, Repr

/-- `ERR` (10_state R13). -/
structure ErrReg where
  code : Byte
  cmdb : Byte
  blk : BitVec 7
  att : BitVec 3
deriving DecidableEq, Repr

/-- One record of the log port (10_state R30). -/
structure LogRecord where
  kind : Byte
  op : Byte
  cmdb : Byte
  blk : BitVec 7
  att : BitVec 3
deriving DecidableEq, Repr

/-- The operand latches (10_state R17). -/
structure Latches where
  ticks : BitVec 24
  light : Bool
  crop : Bool
  on : Bool
  rate : Word32
  txlen : Byte
  resplen : Byte
  readyMax : Word32
  op : Byte
deriving DecidableEq, Repr

/-- Which operands the host has written since reset (10_state R35): the four operand registers that R34 leaves
"unspecified", and each byte of `TXBUF`. -/
structure HostWrites where
  ticks : Bool
  flags : Bool
  rate : Bool
  len : Bool
  txbuf : BitVec 16
deriving DecidableEq, Repr

/-- One call of the Transport and how it ended (20_memory R46 to R48; the traffic lines of 30_encoding R87). -/
inductive LinkCall where
  | write (frame : List Byte) (ok : Bool)
  | read (n : Nat) (bytes : List Byte)
  | setBaud (rate : Rate) (ok : Bool)
deriving DecidableEq, Repr

/-- One action of the host (00_scope R8(b); 10_state R10, R31; 20_memory R41). `engine` is the host standing by while
the engine takes one step. -/
inductive HostAct where
  | engine
  | writeReg (no : Nat) (value : Word32)
  | readReg (no : Nat)
  | writeRaw (address : Nat) (value : Byte)
  | readRaw (address : Nat)
  | writeImg (address : Nat) (value : Word16)
  | readImg (address : Nat)
  | setCancel (level : Bool)
  | reset
deriving DecidableEq, Repr

/-- Why the machine stops with a fault. Each is an access to a place the spec does not give the machine. -/
inductive Fault where
  /-- A host access to a register number that is not in the table of 10_state R10. Safe: the model stops where a
  platform might go on. -/
  | noRegister (no : Nat)
  /-- A host access to `RAW` at or above 614400 (10_state R28). Safe: the address does not exist. -/
  | noRawByte (address : Nat)
  /-- A host access to `IMG` at or above 307200 (10_state R29). Safe: the address does not exist. -/
  | noImgWord (address : Nat)
deriving DecidableEq, Repr

/-- Why the model gives a run no meaning. -/
inductive Refusal where
  /-- An instruction that has no meaning yet; no arm answers it. Safe: the model stops. -/
  | notModelled (mnemonic : String)
  /-- The host touched `RAW` or `IMG` while `STATUS.BUSY` = 1; raised by the host port. Safe: 20_memory R41 has the
  model refuse the run. -/
  | memoryWhileBusy
  /-- The host wrote `TXBUF` while `STATUS.BUSY` = 1; raised by the host port. Safe: 70_reset R242 has the model refuse
  the run. -/
  | txBufWhileBusy
  /-- The host started an operation that uses an operand register, a `TXBUF` byte or a `RAW` byte that nothing has
  written since reset; raised at the start of the operation. Safe: 10_state R35 has the model refuse the launch. -/
  | operandNeverWritten
  /-- A frame that the sequencer's present state does not write; raised by the frames' meanings. Safe: no rule gives
  the frame an effect there (30_encoding R71), and no step of the machine comes to it. -/
  | frameNotDue
  /-- A busy sequencer in a state that does not belong to the operation it runs; raised by the operations' meanings.
  Safe: 10_state R14 gives it no transition, and no run reaches it. -/
  | seqOutsideOperation
  /-- A busy sequencer whose operation code is reserved; raised by the fetch. Safe: no run reaches it. -/
  | reservedWhileBusy
deriving DecidableEq, Repr

/-- The machine. Widths and rules are in INVENTORY.md. -/
structure State where
  -- the sequencer (10_state R14, R24, R36)
  seq : Seq
  nblk : BitVec 7
  blk : BitVec 7
  att : BitVec 3
  lastCmd : Byte
  -- host port registers (10_state R10)
  status : Status
  err : ErrReg
  esticky : Word32
  argTicks : BitVec 24
  argFlags : BitVec 3
  argRate : Word32
  argLen : BitVec 16
  rxlen : Byte
  resCks : Byte
  fwType : Byte
  fwMajor : Byte
  fwMinor : Byte
  substCnt : BitVec 7
  substMap : BitVec 75
  baudCur : Rate
  baudPrev : Rate
  cfgReadyMax : Word32
  polls : Word32
  txbuf : List Byte
  rxbuf : List Byte
  -- operand latches (10_state R17)
  latch : Latches
  -- accumulators (10_state R25, R26)
  cksAcc : BitVec 7
  cksEmpty : Bool
  lrcAcc : Byte
  -- memories (10_state R28, R29)
  raw : Memory 8
  img : Memory 16
  -- the log port and the cancel input (10_state R30, R31)
  log : List LogRecord
  cancel : Bool
  -- the Transport, outside the engine (10_state R32); `none` is a rate that is not known
  lineRate : Option Rate
  -- the model's own: the environment's scripted answers, the count of free ones, the calls made so far
  answers : List Answer
  draws : Nat
  traffic : List LinkCall
  -- the model's own: the host's actions to come, the values its reads returned so far
  host : List HostAct
  readback : List Word32
  -- the model's own: what the host has written since reset, and the addresses of `RAW` that nothing has (10_state R35)
  wrote : HostWrites
  rawUnwritten : Ranges
  -- the model's own: which free contents hold
  memEpoch : Nat
  blkEpoch : Nat
  rxEpoch : Nat
deriving DecidableEq, Repr

/-- `STATUS` after reset (10_state R34). -/
def Status.reset : Status := ⟨false, false, false, false⟩

/-- `ERR` cleared (10_state R11, R34). -/
def ErrReg.none : ErrReg := ⟨0#8, 0#8, 0#7, 0#3⟩

/-- The latches after reset: "unspecified" in 10_state R34 (log 15). -/
def Latches.reset : Latches := ⟨0#24, false, false, false, 0#32, 0#8, 0#8, 0#32, 0#8⟩

/-- Nothing is written yet (10_state R34, R35). -/
def HostWrites.nothing : HostWrites := ⟨false, false, false, false, 0#16⟩

/-- Every operand is written. -/
def HostWrites.everything : HostWrites := ⟨true, true, true, true, 0xFFFF#16⟩

/-- The machine right after reset (10_state R34; 70_reset R230), the Transport opened at `BAUD_INIT` (70_reset R235),
no answer scripted and no host action waiting (logs 2, 3, 14, 15, 17, 19). -/
def State.reset : State where
  seq := .idle
  nblk := 0#7
  blk := 0#7
  att := 0#3
  lastCmd := 0#8
  status := Status.reset
  err := ErrReg.none
  esticky := 0#32
  argTicks := 0#24
  argFlags := 0#3
  argRate := 0#32
  argLen := 0#16
  rxlen := 0#8
  resCks := 0#8
  fwType := 0#8
  fwMajor := 0#8
  fwMinor := 0#8
  substCnt := 0#7
  substMap := 0#75
  baudCur := Config.baudInit
  baudPrev := Config.baudInit
  cfgReadyMax := 0#32
  polls := 0#32
  txbuf := List.replicate Config.txBufBytes 0#8
  rxbuf := List.replicate Config.rxBufBytes 0#8
  latch := Latches.reset
  cksAcc := 0#7
  cksEmpty := true
  lrcAcc := 0#8
  raw := []
  img := []
  log := []
  cancel := false
  lineRate := some Config.baudInit
  answers := []
  draws := 0
  traffic := []
  host := []
  readback := []
  wrote := HostWrites.nothing
  rawUnwritten := [(0, 614400)]
  memEpoch := 0
  blkEpoch := 0
  rxEpoch := 0

/-- The `done` output, equal to `STATUS.DONE` at all times (10_state R31). -/
def State.done (s : State) : Bool := s.status.done

/-- What `step` and `exec` answer. -/
abbrev Outcome := Host.Outcome State Fault Refusal

end Sys2Proof.Machine
end

