-- ==== Sys2Proof/Machine/Flags.lean ====
section
/-! DEFINITION. The flags and packed registers: error codes, sticky bits, and the words a host read of `STATUS`, `ERR`,
`BAUD` and the other packed registers returns (10_state R10, R12, R13, R15, R21, R22; 60_exceptions R191). -/

namespace Sys2Proof.Machine

/-- The error codes (60_exceptions R191). -/
def ErrKind.code : ErrKind → Byte
  | .communicationTimeout => 1#8
  | .checksumMismatch => 2#8
  | .blockTransferAborted => 3#8
  | .invalidBaudRate => 4#8
  | .baudNegotiationFailed => 5#8
  | .exposureTimedOut => 6#8
  | .transportFatal => 7#8
  | .cancelled => 8#8
  | .invalidOperation => 9#8
  | .overrun => 10#8

/-- `ESTICKY[code of E] <- 1` (10_state R15). -/
def stickySet (e : ErrKind) (w : Word32) : Word32 := w ||| (1#32 <<< e.code.toNat)

/-- A flag as bit `i` of a register. -/
def flagBit (b : Bool) (i : Nat) : Word32 := if b then 1#32 <<< i else 0#32

/-- `STATUS` as read: `BUSY`[0], `DONE`[1], `OK`[2], `FATAL`[3] (10_state R10). -/
def Status.word (f : Status) : Word32 :=
  flagBit f.busy 0 ||| flagBit f.done 1 ||| flagBit f.ok 2 ||| flagBit f.fatal 3

/-- `ERR` as read: `CODE`[7:0], `CMDB`[15:8], `BLK`[22:16], `ATT`[26:24] (10_state R10). -/
def ErrReg.word (e : ErrReg) : Word32 :=
  e.code.setWidth 32 ||| (e.cmdb.setWidth 32 <<< 8) ||| (e.blk.setWidth 32 <<< 16) ||| (e.att.setWidth 32 <<< 24)

/-- `RES_FW` as read: `TYPE`[7:0], `MAJOR`[15:8], `MINOR`[23:16] (10_state R10). -/
def fwWord (s : State) : Word32 :=
  s.fwType.setWidth 32 ||| (s.fwMajor.setWidth 32 <<< 8) ||| (s.fwMinor.setWidth 32 <<< 16)

/-- `SUBST_MAP[BLK] <- 1` (10_state R21; 44_transfer R147). -/
def substSet (blk : BitVec 7) (m : BitVec 75) : BitVec 75 := m ||| (1#75 <<< blk.toNat)

end Sys2Proof.Machine
end

