-- ==== Sys2Proof/Machine/Operands.lean ====
section
/-! DEFINITION. Operands: the constants of 00_scope R6, the fields of the operand registers, the rate table, the bytes of
each frame's payload, and the latching of the operands at the start of an operation. -/

namespace Sys2Proof.Machine

-- Constants the source fixes (00_scope R6).

/-- Samples per block. -/
def blockSamples : Nat := 4096

/-- Bytes of a block's payload. -/
def blockBytes : Nat := 8192

/-- Image rows. -/
def imageRows : Nat := 480

/-- Bytes of `RAW` (10_state R28). -/
def rawBytes : Nat := 614400

/-- Words of `IMG` (10_state R29). -/
def imgWords : Nat := 307200

/-- Image columns: 512 cropped, 640 full (00_scope R6). -/
def imageCols (crop : Bool) : Nat := if crop then 512 else 640

/-- The block count of an image: 60 cropped, 75 full (44_transfer R152). -/
def blockCount (crop : Bool) : BitVec 7 := if crop then 60#7 else 75#7

/-- The retry ceiling (00_scope R6; 44_transfer R146). -/
def retryMax : BitVec 3 := 5#3

-- Fields of the operand registers (10_state R10, R16).

/-- `ARG_FLAGS.LIGHT`. -/
def argLight (s : State) : Bool := s.argFlags.getLsbD 0

/-- `ARG_FLAGS.CROP`. -/
def argCrop (s : State) : Bool := s.argFlags.getLsbD 1

/-- `ARG_FLAGS.ON`. -/
def argOn (s : State) : Bool := s.argFlags.getLsbD 2

/-- `ARG_LEN.TXLEN`. -/
def argTxLen (s : State) : Byte := s.argLen.extractLsb' 0 8

/-- `ARG_LEN.RESPLEN`. -/
def argRespLen (s : State) : Byte := s.argLen.extractLsb' 8 8

/-- The operands of operation `op`, copied at its start (10_state R17; log 8). -/
def latchOperands (op : Byte) (s : State) : Latches where
  ticks := s.argTicks
  light := argLight s
  crop := argCrop s
  on := argOn s
  rate := s.argRate
  txlen := argTxLen s
  resplen := argRespLen s
  readyMax := s.cfgReadyMax
  op := op

-- What an operation uses must have been written since reset (10_state R35; 30_encoding R80; 70_reset R236).

/-- Bytes of `RAW` that a decode reads: two a sample (45_decoder R162). -/
def streamBytes (crop : Bool) : Nat := 2 * (imageRows * imageCols crop)

/-- How many bytes of `TXBUF` CKSUM and SEND use: none where their length check ends them (40_checksum R103; 41_dispatcher
R114; log 16). -/
def txBytesUsed (op : Byte) (s : State) : Nat :=
  if (argTxLen s).toNat ≤ Config.txBufBytes ∧ (op = 0x01#8 ∨ (argRespLen s).toNat ≤ Config.rxBufBytes) then
    (argTxLen s).toNat
  else 0

/-- Every operand of operation `op` has been written since reset. -/
def operandsWritten (op : Byte) (s : State) : Bool :=
  if op = 0x01#8 ∨ op = 0x02#8 then s.wrote.len && (List.range (txBytesUsed op s)).all (fun k => s.wrote.txbuf.getLsbD k)
  else if op = 0x03#8 then s.wrote.rate
  else if op = 0x04#8 then s.wrote.ticks && s.wrote.flags
  else if op = 0x05#8 ∨ op = 0x16#8 ∨ op = 0x17#8 then s.wrote.flags
  else if op = 0x06#8 then s.wrote.flags && Ranges.noneBelow s.rawUnwritten (streamBytes (argCrop s))
  else true

-- Rates (10_state R22; 30_encoding R69).

/-- Bits per second. -/
def rateBps : Rate → Word32
  | .r9600 => 9600#32
  | .r19200 => 19200#32
  | .r38400 => 38400#32
  | .r57600 => 57600#32
  | .r115200 => 115200#32
  | .r230400 => 230400#32
  | .r460800 => 460800#32

/-- The index of a rate in ascending order (10_state R22). -/
def rateIndex : Rate → BitVec 3
  | .r9600 => 0#3
  | .r19200 => 1#3
  | .r38400 => 2#3
  | .r57600 => 3#3
  | .r115200 => 4#3
  | .r230400 => 5#3
  | .r460800 => 6#3

/-- The rate that a number of bits per second names, compared on all 32 bits (42_baud R121). -/
def rateOf (bps : Word32) : Option Rate :=
  if bps = 9600#32 then some .r9600
  else if bps = 19200#32 then some .r19200
  else if bps = 38400#32 then some .r38400
  else if bps = 57600#32 then some .r57600
  else if bps = 115200#32 then some .r115200
  else if bps = 230400#32 then some .r230400
  else if bps = 460800#32 then some .r460800
  else none

-- Payload bytes after the command byte (30_encoding R64, R67 to R70).

/-- `zext_8` of a one-bit latch (30_encoding R68, R70). -/
def bitByte (b : Bool) : Byte := if b then 0x01#8 else 0x00#8

/-- The argument of a `B` frame, the ASCII digit of the rate's index (30_encoding R69). -/
def rateDigit (r : Rate) : Byte := 0x30#8 + (rateIndex r).setWidth 8

/-- The five bytes after `T`: ticks most significant byte first, then the type field (30_encoding R64, R67, R68). -/
def exposureArgs (l : Latches) : List Byte :=
  [l.ticks.extractLsb' 16 8, l.ticks.extractLsb' 8 8, l.ticks.extractLsb' 0 8, 0x00#8, bitByte l.light]

/-- `"est"`, what follows `T` in the diagnostic payload (30_encoding R63). -/
def testArgs : List Byte := [0x65#8, 0x73#8, 0x74#8]

/-- `"TestOk"` (42_baud R124). -/
def testOk : List Byte := [0x54#8, 0x65#8, 0x73#8, 0x74#8, 0x4F#8, 0x6B#8]

end Sys2Proof.Machine
end

