-- ==== Sys2Proof/Machine/Ops.lean ====
section
/-! DEFINITION. The operations every instruction is made of: the log, the ONE error entry and the normal completion
(60_exceptions R204, R205, R215), the start of an operation (10_state R11), the Transport primitives (20_memory R46
to R48), the checksum unit (40_checksum R101), `Emit` and `Receive` (41_dispatcher R110, R115), and what happens to a
`CMD` write that starts nothing. -/

namespace Sys2Proof.Machine

-- Errors, completion and start

/-- `log E(blk, att)` (60_exceptions R215): one record and the sticky bit, nothing else. -/
def logError (e : ErrKind) (blk : BitVec 7) (att : BitVec 3) (s : State) : State :=
  { s with
    log := s.log ++ [⟨e.code, s.latch.op, s.lastCmd, blk, att⟩]
    esticky := stickySet e s.esticky }

/-- `raise E(info)`, the error entry (60_exceptions R205), `info` being `blk` and `att`, 0 where none is given. -/
def raise (e : ErrKind) (blk : BitVec 7) (att : BitVec 3) (s : State) : State :=
  { logError e blk att s with
    err := ⟨e.code, s.lastCmd, blk, att⟩
    status := ⟨false, true, false, if e = .transportFatal then true else s.status.fatal⟩
    seq := if e = .transportFatal then .fatal else .idle }

/-- `complete(ok)`, the normal end of an operation (60_exceptions R204). -/
def complete (ok : Bool) (s : State) : State :=
  { s with status := { s.status with ok := ok, busy := false, done := true }, seq := .idle }

/-- The start of operation `op`, whose first state is `first` (10_state R11, R17, R36). -/
def start (op : Byte) (first : Seq) (s : State) : State :=
  { s with
    latch := latchOperands op s
    status := { s.status with busy := true, done := false, ok := false }
    err := ErrReg.none
    rxlen := 0#8
    lastCmd := 0#8
    seq := first }

/-- A reserved code: the operation starts and ends at once by `raise InvalidOperation` (30_encoding R82; log 7). -/
def startReserved (op : Byte) (s : State) : State := raise .invalidOperation 0#7 0#3 (start op s.seq s)

/-- A `CMD` write while `STATUS.BUSY` = 1 (10_state R11; 60_exceptions R201). -/
def overrun (s : State) : State := { s with esticky := stickySet .overrun s.esticky }

/-- The sequencer moves (00_scope section 5, `SEQ <- state`). -/
def goto (q : Seq) (s : State) : State := { s with seq := q }

-- The Transport (20_memory R46 to R48)

/-- The environment's answer to the next Transport call: the first scripted one, else a free draw (log 3). -/
def nextAnswer (s : State) : Answer :=
  match s.answers with
  | a :: _ => a
  | [] => Config.answer s.draws

/-- The next answer is used up by the call `c`. -/
def callDone (c : LinkCall) (s : State) : State :=
  { s with
    answers := s.answers.tail
    draws := if s.answers.isEmpty then s.draws + 1 else s.draws
    traffic := s.traffic ++ [c] }

/-- Whether the next `TWrite` or `TSetBaud` succeeds. -/
def linkOk (s : State) : Bool := (nextAnswer s).ok

/-- The state after `TWrite(frame)` (20_memory R47). -/
def afterWrite (frame : List Byte) (s : State) : State := callDone (.write frame (linkOk s)) s

/-- What `TRead(n)` returns: at most `n` bytes (20_memory R46). -/
def readLink (n : Nat) (s : State) : List Byte := (nextAnswer s).bytes.take n

/-- The state after `TRead(n)`. -/
def afterRead (n : Nat) (s : State) : State := callDone (.read n (readLink n s)) s

/-- The state after `TSetBaud(rate)`: on a failure the line rate is not known (20_memory R48; 42_baud R127; log 18). -/
def afterSetBaud (r : Rate) (s : State) : State :=
  { callDone (.setBaud r (linkOk s)) s with lineRate := if linkOk s then some r else none }

-- The checksum unit (40_checksum R101)

/-- `CksClear`. -/
def cksClear (s : State) : State := { s with cksEmpty := true }

/-- `CksAbsorb(b)`. -/
def cksAbsorb (b : Byte) (s : State) : State :=
  { s with cksAcc := if s.cksEmpty then ckBits b else s.cksAcc ^^^ ckBits b, cksEmpty := false }

/-- `CksAbsorb` of each byte in order. -/
def cksAbsorbAll (bs : List Byte) (s : State) : State := bs.foldl (fun t b => cksAbsorb b t) s

/-- `CksValue`. -/
def cksValue (s : State) : Byte := s.cksAcc.setWidth 8

/-- The checksum unit after `CksClear` and the absorption of a payload, with the payload's command byte as `LASTCMD`:
what `Emit` does before it writes (41_dispatcher R110). -/
def emitPrepare (c : Byte) (args : List Byte) (s : State) : State :=
  { cksAbsorbAll (c :: args) (cksClear s) with lastCmd := c }

/-- The frame `Emit` writes: payload, then `CksValue` (41_dispatcher R110; 30_encoding R60). -/
def emitFrame (c : Byte) (args : List Byte) (s : State) : List Byte :=
  (c :: args) ++ [cksValue (emitPrepare c args s)]

/-- The state when `Emit`'s `TWrite` has returned. -/
def emitted (c : Byte) (args : List Byte) (s : State) : State :=
  afterWrite (emitFrame c args s) (emitPrepare c args s)

/-- `Emit(c, args)` (41_dispatcher R110), then `next` if the write succeeded, else `fail`, an end by `TransportFatal`. -/
def emit (c : Byte) (args : List Byte) (next fail : State → State) (s : State) : State :=
  if linkOk s then next (emitted c args s) else fail (emitted c args s)

/-- The end by `TransportFatal` where no block is in progress: no block, no attempt (R110; 10_state R13; log 9). -/
def linkFatal (s : State) : State := raise .transportFatal 0#7 0#3 s

/-- `RXBUF` after the response `r`: its bytes, and above them free values (41_dispatcher R115; log 11). -/
def rxStore (epoch : Nat) (r : List Byte) : List Byte :=
  (List.range Config.rxBufBytes).map (fun i => r.getD i (Config.rxContent epoch i))

/-- `Receive(n)` (41_dispatcher R115): the response is `readLink n` of the state before it. -/
def receive (n : Nat) (s : State) : State :=
  { afterRead n s with
    rxlen := BitVec.ofNat 8 (readLink n s).length
    rxbuf := rxStore (s.rxEpoch + 1) (readLink n s)
    rxEpoch := s.rxEpoch + 1 }

-- Operations and the sequencer

/-- Operation `op` with first state `first` and the transitions `advance`: what a `CMD` write of its code does, and what
the sequencer does while it runs it (10_state R11, R14; 60_exceptions R198, R201; logs 6, 26, 28). A start with an operand
that nothing has written since reset is refused (10_state R35; log 16). -/
def runOperation (op : Byte) (first : Seq) (advance : State → Option State) (s : State) : Outcome :=
  if s.status.fatal then .next s
  else if s.status.busy then
    if s.latch.op = op then
      match advance s with
      | some t => .next t
      | none => .refused .seqOutsideOperation
    else .next (overrun s)
  else if operandsWritten op s then .next (start op first s)
  else .refused .operandNeverWritten

/-- The sequencer is running operation `op` and is in state `q`. -/
def runsAt (op : Byte) (q : Seq) (s : State) : Bool :=
  s.status.busy && !s.status.fatal && (s.latch.op == op) && (s.seq == q)

end Sys2Proof.Machine
end

