-- ==== Sys2Proof/Machine/Baud.lean ====
section
/-! DEFINITION. SETBAUD (42_baud R120 to R128). -/

namespace Sys2Proof.Machine

/-- State `BN_CHECK` (R121): an unlisted rate is rejected before the link is touched. -/
def bnCheck (s : State) : State :=
  match rateOf s.latch.rate with
  | none => raise .invalidBaudRate 0#7 0#3 s
  | some _ => goto .bnCmd { s with baudPrev := s.baudCur }

/-- The end of SETBAUD by `TransportFatal`: the line rate is then not known (R127; log 18). -/
def baudFatal (s : State) : State := linkFatal { s with lineRate := none }

/-- State `BN_CMD` (R122): the `B` frame of rate `r`, at the old rate. -/
def bnCmd (r : Rate) (s : State) : State := emit 0x42#8 [rateDigit r] (goto .bnRate) baudFatal s

/-- State `BN_RATE` (R122): the local rate is switched. -/
def bnRate (r : Rate) (s : State) : State :=
  if linkOk s then goto .bnAck { afterSetBaud r s with baudCur := r }
  else baudFatal (afterSetBaud r s)

/-- State `BN_ACK` (R123): two bytes read and dropped, however many came. -/
def bnAck (s : State) : State := goto .bnTest (afterRead 2 s)

/-- State `BN_TEST` (R124). -/
def bnTest (s : State) : State := emit 0x54#8 testArgs (goto .bnReply) baudFatal s

/-- State `BN_REPLY` (R124): seven bytes beginning `"TestOk"`; a short reply is logged. -/
def bnReply (s : State) : State :=
  let r := readLink 7 s
  let t := receive 7 s
  if r.length = 7 ∧ r.take 6 = testOk then goto .bnConf t
  else if r.length < 7 then goto .bnRoll (logError .communicationTimeout 0#7 0#3 t)
  else goto .bnRoll t

/-- State `BN_CONF` (R125). -/
def bnConf (s : State) : State := emit 0x6B#8 [] (complete true) baudFatal s

/-- State `BN_ROLL` (R125): the previous rate is set again and the failure reported. -/
def bnRoll (s : State) : State :=
  if linkOk s then
    raise .baudNegotiationFailed 0#7 0#3 { afterSetBaud s.baudPrev s with baudCur := s.baudPrev }
  else baudFatal (afterSetBaud s.baudPrev s)

/-- The transitions of SETBAUD. -/
def setbaudStep (s : State) : Option State :=
  match s.seq with
  | .bnCheck => some (bnCheck s)
  | .bnCmd => (rateOf s.latch.rate).map (fun r => bnCmd r s)
  | .bnRate => (rateOf s.latch.rate).map (fun r => bnRate r s)
  | .bnAck => some (bnAck s)
  | .bnTest => some (bnTest s)
  | .bnReply => some (bnReply s)
  | .bnConf => some (bnConf s)
  | .bnRoll => some (bnRoll s)
  | _ => none

/-- SETBAUD. -/
def execSetbaud (s : State) : Outcome := runOperation 0x03#8 .bnCheck setbaudStep s

end Sys2Proof.Machine
end

