-- ==== Sys2Proof/Machine/Checksum.lean ====
section
/-! DEFINITION. CKSUM (40_checksum R102, R103). -/

namespace Sys2Proof.Machine

/-- State `CK_RUN`: the lengths are checked, then `TXBUF[0..n-1]` is folded into the checksum unit (R102, R103). -/
def ckRun (s : State) : State :=
  let n := s.latch.txlen.toNat
  if n = 0 ∨ n > Config.txBufBytes then raise .invalidOperation 0#7 0#3 s
  else
    let t := cksAbsorbAll (s.txbuf.take n) (cksClear s)
    complete true { t with resCks := cksValue t }

/-- CKSUM. -/
def execCksum (s : State) : Outcome :=
  runOperation 0x01#8 .ckRun (fun s => if s.seq = .ckRun then some (ckRun s) else none) s

end Sys2Proof.Machine
end

