-- ==== Sys2Proof/Machine/Decoder.lean ====
section
/-! DEFINITION. The pixel de-interleaver and DECODE (45_decoder R160 to R167). -/

namespace Sys2Proof.Machine

/-- The sample of plane A byte `a` and plane B byte `b` (R161). -/
def sample (order : PixOrder) (a b : Byte) : Word16 :=
  match order with
  | .aLow => b ++ a
  | .aHigh => a ++ b

/-- The samples of a raw stream, in wire order: even offsets are plane A, odd offsets plane B (R160, R161). -/
def samples (order : PixOrder) : List Byte → List Word16
  | a :: b :: rest => sample order a b :: samples order rest
  | _ => []

/-- `samples` in constant stack, what compiled code runs. -/
def samplesTR (order : PixOrder) (bytes : List Byte) : List Word16 := go bytes []
where
  /-- The samples so far are in `acc`, last first. -/
  go : List Byte → List Word16 → List Word16
    | a :: b :: rest, acc => go rest (sample order a b :: acc)
    | _, acc => acc.reverse

theorem samplesTR_go (order : PixOrder) (bytes : List Byte) :
    ∀ acc : List Word16, samplesTR.go order bytes acc = acc.reverse ++ samples order bytes := by
  induction bytes using samples.induct with
  | case1 a b rest ih => intro acc; simp [samplesTR.go, samples, ih]
  | case2 l h => intro acc; unfold samplesTR.go samples; split <;> simp_all

@[csimp] theorem samples_eq_samplesTR : @samples = @samplesTR := by
  funext order bytes
  simp [samplesTR, samplesTR_go]

/-- The first `n` rows of `cols` elements of a sequence in row-major order (R163). -/
def rowsOf {α : Type} (cols : Nat) : Nat → List α → List (List α)
  | 0, _ => []
  | n + 1, l => l.take cols :: rowsOf cols n (l.drop cols)

/-- The image buffer of a raw stream: row-major rows, in reverse row order (R163). -/
def decodeImage (order : PixOrder) (cols : Nat) (bytes : List Byte) : List Word16 :=
  (rowsOf cols imageRows (samples order bytes)).reverse.flatten

/-- The bytes of `RAW` that `Decode(crop)` reads (R162); a byte nothing defines is a free value (log 17). -/
def rawStream (crop : Bool) (s : State) : List Byte :=
  Memory.read (Config.rawContent s.memEpoch) s.raw 0 (streamBytes crop)

/-- `Decode(crop)` (R162). -/
def decodeRaw (crop : Bool) (s : State) : State :=
  { s with img := Memory.put s.img 0 (decodeImage Config.pixOrder (imageCols crop) (rawStream crop s)) }

/-- State `DE_RUN` (R164). -/
def deRun (s : State) : State := complete true (decodeRaw s.latch.crop s)

/-- DECODE. -/
def execDecode (s : State) : Outcome :=
  runOperation 0x06#8 .deRun (fun s => if s.seq = .deRun then some (deRun s) else none) s

end Sys2Proof.Machine
end

