-- ==== Sys2Proof/Machine/DeviceControl.lean ====
section
/-! DEFINITION. The eight single-command operations (46_device_control R170 to R181). -/

namespace Sys2Proof.Machine

/-- State `DC_TX` for a payload and a response length (R170). -/
def dcTx (c : Byte) (args : List Byte) (responseLen : Nat) (s : State) : State :=
  emit c args (fun t => if responseLen = 0 then complete true t else goto .dcRx t) linkFatal s

/-- State `DC_RX` of PING (R171): a wrong second byte is a negative result, a short reply an error. -/
def pingRx (s : State) : State :=
  if (readLink 2 s).length < 2 then raise .communicationTimeout 0#7 0#3 (receive 2 s)
  else complete ((readLink 2 s).getD 1 0#8 == 0x4F#8) (receive 2 s)

/-- `FwDecode(major, minor)` (R177): type, major, minor. -/
def fwDecode (major minor : Byte) : Byte × Byte × Byte :=
  if 8#8 ≤ major then (0x54#8, major - 8#8, minor) else (0x56#8, major, minor)

/-- `RES_FW <- FwDecode(major, minor)` (R176). -/
def setFw (major minor : Byte) (s : State) : State :=
  { s with
    fwType := (fwDecode major minor).1
    fwMajor := (fwDecode major minor).2.1
    fwMinor := (fwDecode major minor).2.2 }

/-- State `DC_RX` of FWQUERY (R176). -/
def fwRx (s : State) : State :=
  let r := readLink 2 s
  if r.length < 2 then raise .communicationTimeout 0#7 0#3 (receive 2 s)
  else complete true (setFw (r.getD 0 0#8) (r.getD 1 0#8) (receive 2 s))

/-- The one transition of an operation that reads nothing (R170). -/
def dcOnly (c : Byte) (args : List Byte) (s : State) : Option State :=
  if s.seq = .dcTx then some (dcTx c args 0 s) else none

/-- The transitions of an operation with a two-byte reply, read by `rx` (R170). -/
def dcReply (c : Byte) (rx : State → State) (s : State) : Option State :=
  match s.seq with
  | .dcTx => some (dcTx c [] 2 s)
  | .dcRx => some (rx s)
  | _ => none

/-- PING (R171). -/
def execPing (s : State) : Outcome := runOperation 0x10#8 .dcTx (dcReply 0x45#8 pingRx) s

/-- SHOPEN (R172). -/
def execShopen (s : State) : Outcome := runOperation 0x11#8 .dcTx (dcOnly 0x4F#8 []) s

/-- SHCLOSE (R173). -/
def execShclose (s : State) : Outcome := runOperation 0x12#8 .dcTx (dcOnly 0x43#8 []) s

/-- SHDEEN (R174). -/
def execShdeen (s : State) : Outcome := runOperation 0x13#8 .dcTx (dcOnly 0x4B#8 []) s

/-- ABORTEXP (R175). -/
def execAbortexp (s : State) : Outcome := runOperation 0x14#8 .dcTx (dcOnly 0x41#8 []) s

/-- FWQUERY (R176). -/
def execFwquery (s : State) : Outcome := runOperation 0x15#8 .dcTx (dcReply 0x56#8 fwRx) s

/-- HEATER (R178). -/
def execHeater (s : State) : Outcome :=
  runOperation 0x16#8 .dcTx (fun s => dcOnly 0x67#8 [bitByte s.latch.on] s) s

/-- CHOP (R179). -/
def execChop (s : State) : Outcome :=
  runOperation 0x17#8 .dcTx (fun s => dcOnly 0x55#8 [bitByte s.latch.on] s) s

end Sys2Proof.Machine
end

