-- ==== Sys2Proof/Machine/Dispatcher.lean ====
section
/-! DEFINITION. SEND (41_dispatcher R111 to R114). -/

namespace Sys2Proof.Machine

/-- State `SD_TX`: lengths, then the raw frame of `TXBUF` (R112, R114; 30_encoding R65). -/
def sdTx (s : State) : State :=
  let n := s.latch.txlen.toNat
  let m := s.latch.resplen.toNat
  if n = 0 ∨ n > Config.txBufBytes ∨ m > Config.rxBufBytes then raise .invalidOperation 0#7 0#3 s
  else
    match s.txbuf.take n with
    | [] => raise .invalidOperation 0#7 0#3 s
    | c :: args => emit c args (fun t => if m = 0 then complete true t else goto .sdRx t) linkFatal s

/-- State `SD_RX`: a short response is handed over and recorded as `CommunicationTimeout` (R113). -/
def sdRx (s : State) : State :=
  let m := s.latch.resplen.toNat
  if (readLink m s).length = m then complete true (receive m s)
  else raise .communicationTimeout 0#7 0#3 (receive m s)

/-- The transitions of SEND. -/
def sendStep (s : State) : Option State :=
  match s.seq with
  | .sdTx => some (sdTx s)
  | .sdRx => some (sdRx s)
  | _ => none

/-- SEND. -/
def execSend (s : State) : Outcome := runOperation 0x02#8 .sdTx sendStep s

end Sys2Proof.Machine
end

