-- ==== Sys2Proof/Machine/Exposure.lean ====
section
/-! DEFINITION. STARTEXP (43_exposure R131 to R136). -/

namespace Sys2Proof.Machine

/-- State `EX_TX` (R132). -/
def exTx (s : State) : State := emit 0x54#8 (exposureArgs s.latch) (goto .exWait) linkFatal { s with polls := 0#32 }

/-- State `EX_WAIT`, one poll of the ready-wait loop: cancel, then the bound, then the read (R133). -/
def exWait (s : State) : State :=
  if s.cancel then raise .cancelled 0#7 0#3 s
  else if s.latch.readyMax ≤ s.polls then raise .exposureTimedOut 0#7 0#3 s
  else
    let t := afterRead 1 { s with polls := s.polls + 1#32 }
    if readLink 1 s = [0x44#8] then complete true t else goto .exWait t

/-- The transitions of STARTEXP. -/
def startexpStep (s : State) : Option State :=
  match s.seq with
  | .exTx => some (exTx s)
  | .exWait => some (exWait s)
  | _ => none

/-- STARTEXP. -/
def execStartexp (s : State) : Outcome := runOperation 0x04#8 .exTx startexpStep s

end Sys2Proof.Machine
end

