-- ==== Sys2Proof/Machine/Transfer.lean ====
section
/-! DEFINITION. READIMG (44_transfer R140 to R156). -/

namespace Sys2Proof.Machine

/-- The first index of the block `BLK` in `RAW` (20_memory R42). -/
def blockBase (s : State) : Nat := blockBytes * s.blk.toNat

/-- The 8192 bytes of the block `BLK` in `RAW` become `bytes`, and count as written (20_memory R42; 10_state R35). -/
def storeBlock (bytes : List Byte) (s : State) : State :=
  { s with
    raw := Memory.put s.raw (blockBase s) bytes
    rawUnwritten := Ranges.remove s.rawUnwritten (blockBase s) blockBytes }

/-- The bytes of a block in which a READIMG ended by error: free values (U20). -/
def lostBytes (epoch base : Nat) : List Byte :=
  (List.range blockBytes).map (fun j => Config.lostBlock epoch (base + j))

/-- READIMG ends by error in the block `BLK` after a read of it: the block's bytes are any value (R154; 92_eei_decisions
D25; 93_implementation_defined U20; log 12). -/
def loseBlock (s : State) : State :=
  { storeBlock (lostBytes (s.blkEpoch + 1) (blockBase s)) s with blkEpoch := s.blkEpoch + 1 }

/-- The end by `TransportFatal` in a block: `BLK` and `ATT` as they are (R154; log 9), the block's bytes any value. -/
def blockFatal (s : State) : State := raise .transportFatal s.blk s.att (loseBlock s)

/-- State `RI_X` (R141). -/
def riX (s : State) : State :=
  emit 0x58#8 [] (goto .riSync) linkFatal { s with substCnt := 0#7, substMap := 0#75 }

/-- State `RI_SYNC` (R142). -/
def riSync (s : State) : State :=
  let t := afterRead 1 s
  if (readLink 1 s).length < 1 then raise .communicationTimeout 0#7 0#3 t
  else goto .riBlk { t with nblk := blockCount s.latch.crop, blk := 0#7, att := 0#3 }

/-- State `RI_BLK`, one read attempt of a block (R143, R144). A short read, or a cancellation after a mismatch, leaves any
value in the block's bytes; a cancellation before the block's first read leaves them alone (R154; log 12). -/
def riBlk (s : State) : State :=
  if s.cancel then raise .cancelled s.blk s.att (if s.att = 0#3 then s else loseBlock s)
  else
    let r := readLink 8193 s
    let t := afterRead 8193 { s with lrcAcc := 0#8 }
    if r.length < 8193 then raise .communicationTimeout s.blk s.att (loseBlock t)
    else
      let p := r.take blockBytes
      let u := { storeBlock p t with lrcAcc := lrc p }
      if lrc p = r.getD blockBytes 0#8 then goto .riAck u
      else
        let v := logError .checksumMismatch s.blk s.att u
        if s.att < retryMax then goto .riRetry v else goto .riAbort v

/-- `NextBlock` (R148). -/
def nextBlock (s : State) : State :=
  { s with blk := s.blk + 1#7, att := 0#3, seq := if s.blk + 1#7 = s.nblk then .riEpi else .riBlk }

/-- State `RI_ACK` (R145). -/
def riAck (s : State) : State := emit 0x4B#8 [] nextBlock blockFatal s

/-- State `RI_RETRY` (R146). -/
def riRetry (s : State) : State :=
  emit 0x52#8 [] (fun t => goto .riBlk { t with att := t.att + 1#3 }) blockFatal s

/-- The substitution of a block that failed six times (R147). -/
def substitute (s : State) : State :=
  { storeBlock (List.replicate blockBytes 0#8) s with
    substCnt := s.substCnt + 1#7
    substMap := substSet s.blk s.substMap }

/-- State `RI_ABORT` (R147). -/
def riAbort (s : State) : State :=
  emit 0x53#8 [] (fun t => nextBlock (substitute (logError .blockTransferAborted t.blk t.att t))) blockFatal s

/-- State `RI_EPI` (R149). -/
def riEpi (s : State) : State :=
  if (readLink 5 s).length < 5 then raise .communicationTimeout s.nblk 0#3 (afterRead 5 s)
  else goto .riDec (afterRead 5 s)

/-- State `RI_DEC` (R150). -/
def riDec (s : State) : State := complete true (decodeRaw s.latch.crop s)

/-- The transitions of READIMG. -/
def readimgStep (s : State) : Option State :=
  match s.seq with
  | .riX => some (riX s)
  | .riSync => some (riSync s)
  | .riBlk => some (riBlk s)
  | .riAck => some (riAck s)
  | .riRetry => some (riRetry s)
  | .riAbort => some (riAbort s)
  | .riEpi => some (riEpi s)
  | .riDec => some (riDec s)
  | _ => none

/-- READIMG. -/
def execReadimg (s : State) : Outcome := runOperation 0x05#8 .riX readimgStep s

end Sys2Proof.Machine
end

