-- ==== Sys2Proof/Machine/Frames.lean ====
section
/-! DEFINITION. The meaning of each wire frame of 30_encoding R71: the transition of the sequencer that writes it, in the
state and operation that R71's column "written by" names (log 6). In any other state no rule gives the frame an effect. -/

namespace Sys2Proof.Machine

/-- A frame that is due is written by the transition `t`; another one has no effect the spec gives (R71). -/
def whenDue (due : Bool) (t : State → State) (s : State) : Outcome :=
  if due then .next (t s) else .refused .frameNotDue

/-- The `B` frame of rate `r` (42_baud R122). -/
def frameB (r : Rate) (s : State) : Outcome :=
  whenDue (runsAt 0x03#8 .bnCmd s && (rateOf s.latch.rate == some r)) (bnCmd r) s

/-- A frame of HEATER or CHOP, operation `op`, for the on/off argument `on` (46_device_control R178, R179). -/
def frameOn (op c : Byte) (on : Bool) (s : State) : Outcome :=
  whenDue (runsAt op .dcTx s && (s.latch.on == on)) (dcTx c [bitByte on] 0) s

/-- `E`, ping (46_device_control R171). -/
def execFrameE (s : State) : Outcome := whenDue (runsAt 0x10#8 .dcTx s) (dcTx 0x45#8 [] 2) s

/-- `O`, open shutter (46_device_control R172). -/
def execFrameO (s : State) : Outcome := whenDue (runsAt 0x11#8 .dcTx s) (dcTx 0x4F#8 [] 0) s

/-- `C`, close shutter (46_device_control R173). -/
def execFrameC (s : State) : Outcome := whenDue (runsAt 0x12#8 .dcTx s) (dcTx 0x43#8 [] 0) s

/-- `K`: de-energize shutter under SHDEEN, block acknowledgement under READIMG; which, is told by the operation that is
running (30_encoding R84; 46_device_control R174; 44_transfer R145). -/
def execFrameK (s : State) : Outcome :=
  if runsAt 0x13#8 .dcTx s then .next (dcTx 0x4B#8 [] 0 s) else whenDue (runsAt 0x05#8 .riAck s) riAck s

/-- `A`, abort exposure (46_device_control R175). -/
def execFrameA (s : State) : Outcome := whenDue (runsAt 0x14#8 .dcTx s) (dcTx 0x41#8 [] 0) s

/-- `V`, firmware query (46_device_control R176). -/
def execFrameV (s : State) : Outcome := whenDue (runsAt 0x15#8 .dcTx s) (dcTx 0x56#8 [] 2) s

/-- `g` off (46_device_control R178). -/
def execFrameG0 (s : State) : Outcome := frameOn 0x16#8 0x67#8 false s

/-- `g` on (46_device_control R178). -/
def execFrameG1 (s : State) : Outcome := frameOn 0x16#8 0x67#8 true s

/-- `U` off (46_device_control R179). -/
def execFrameU0 (s : State) : Outcome := frameOn 0x17#8 0x55#8 false s

/-- `U` on (46_device_control R179). -/
def execFrameU1 (s : State) : Outcome := frameOn 0x17#8 0x55#8 true s

/-- `B0` (42_baud R122). -/
def execFrameB0 (s : State) : Outcome := frameB .r9600 s

/-- `B1` (42_baud R122). -/
def execFrameB1 (s : State) : Outcome := frameB .r19200 s

/-- `B2` (42_baud R122). -/
def execFrameB2 (s : State) : Outcome := frameB .r38400 s

/-- `B3` (42_baud R122). -/
def execFrameB3 (s : State) : Outcome := frameB .r57600 s

/-- `B4` (42_baud R122). -/
def execFrameB4 (s : State) : Outcome := frameB .r115200 s

/-- `B5` (42_baud R122). -/
def execFrameB5 (s : State) : Outcome := frameB .r230400 s

/-- `B6` (42_baud R122). -/
def execFrameB6 (s : State) : Outcome := frameB .r460800 s

/-- `"Test"` (42_baud R124). -/
def execFrameTest (s : State) : Outcome := whenDue (runsAt 0x03#8 .bnTest s) bnTest s

/-- `k`, confirm rate (42_baud R125). -/
def execFrameKconf (s : State) : Outcome := whenDue (runsAt 0x03#8 .bnConf s) bnConf s

/-- `T`, start exposure, due when its ticks and its light flag are the latched ones (43_exposure R132). -/
def execFrameT (ticks : Nat) (light : Bool) (s : State) : Outcome :=
  whenDue (runsAt 0x04#8 .exTx s && (s.latch.ticks.toNat == ticks) && (s.latch.light == light)) exTx s

/-- `X`, begin transfer (44_transfer R141). -/
def execFrameX (s : State) : Outcome := whenDue (runsAt 0x05#8 .riX s) riX s

/-- `R`, retry request (44_transfer R146). -/
def execFrameR (s : State) : Outcome := whenDue (runsAt 0x05#8 .riRetry s) riRetry s

/-- `S`, abort block (44_transfer R147). -/
def execFrameS (s : State) : Outcome := whenDue (runsAt 0x05#8 .riAbort s) riAbort s

end Sys2Proof.Machine
end

