-- ==== Sys2Proof/Machine/Dispatch.lean ====
section
/-! DEFINITION. One arm for each constructor of Instr, each a direct call of its meaning. -/

namespace Sys2Proof.Machine

/-- What the machine does with an instruction. -/
def exec (i : Instr) (s : State) : Host.Outcome State Fault Refusal :=
  match i with
  -- host operations, 30_encoding R80
  | .cksum => Sys2Proof.Machine.execCksum s
  | .send => Sys2Proof.Machine.execSend s
  | .setbaud => Sys2Proof.Machine.execSetbaud s
  | .startexp => Sys2Proof.Machine.execStartexp s
  | .readimg => Sys2Proof.Machine.execReadimg s
  | .decodePix => Sys2Proof.Machine.execDecode s
  | .ping => Sys2Proof.Machine.execPing s
  | .shopen => Sys2Proof.Machine.execShopen s
  | .shclose => Sys2Proof.Machine.execShclose s
  | .shdeen => Sys2Proof.Machine.execShdeen s
  | .abortexp => Sys2Proof.Machine.execAbortexp s
  | .fwquery => Sys2Proof.Machine.execFwquery s
  | .heater => Sys2Proof.Machine.execHeater s
  | .chop => Sys2Proof.Machine.execChop s
  -- wire frames, 30_encoding R71
  | .frameE => Sys2Proof.Machine.execFrameE s
  | .frameO => Sys2Proof.Machine.execFrameO s
  | .frameC => Sys2Proof.Machine.execFrameC s
  | .frameK => Sys2Proof.Machine.execFrameK s
  | .frameA => Sys2Proof.Machine.execFrameA s
  | .frameV => Sys2Proof.Machine.execFrameV s
  | .frameG0 => Sys2Proof.Machine.execFrameG0 s
  | .frameG1 => Sys2Proof.Machine.execFrameG1 s
  | .frameU0 => Sys2Proof.Machine.execFrameU0 s
  | .frameU1 => Sys2Proof.Machine.execFrameU1 s
  | .frameB0 => Sys2Proof.Machine.execFrameB0 s
  | .frameB1 => Sys2Proof.Machine.execFrameB1 s
  | .frameB2 => Sys2Proof.Machine.execFrameB2 s
  | .frameB3 => Sys2Proof.Machine.execFrameB3 s
  | .frameB4 => Sys2Proof.Machine.execFrameB4 s
  | .frameB5 => Sys2Proof.Machine.execFrameB5 s
  | .frameB6 => Sys2Proof.Machine.execFrameB6 s
  | .frameTest => Sys2Proof.Machine.execFrameTest s
  | .frameKconf => Sys2Proof.Machine.execFrameKconf s
  | .frameT ticks light => Sys2Proof.Machine.execFrameT ticks light s
  | .frameX => Sys2Proof.Machine.execFrameX s
  | .frameR => Sys2Proof.Machine.execFrameR s
  | .frameS => Sys2Proof.Machine.execFrameS s

end Sys2Proof.Machine
end

