-- ==== Sys2Proof/Machine/HostPort.lean ====
section
/-! DEFINITION. The host port: the register file (10_state R10), the memory port (20_memory R41), the `cancel` level and
the `reset` input (10_state R31; 70_reset R230, R231). -/

namespace Sys2Proof.Machine

/-- Bytes `RXBUF[i]`: at or above `RXLEN` an unspecified value (10_state R18; log 11). -/
def rxByte (i : Nat) (s : State) : Byte :=
  if i < s.rxlen.toNat then s.rxbuf.getD i 0#8 else Config.rxContent s.rxEpoch i

/-- What a host read of register `no` returns, the bits above the register's width 0 (10_state R10). -/
def regRead (no : Nat) (s : State) : Option Word32 :=
  match no with
  | 0 => some 0#32
  | 1 => some s.status.word
  | 2 => some s.err.word
  | 3 => some s.esticky
  | 4 => some (s.argTicks.setWidth 32)
  | 5 => some (s.argFlags.setWidth 32)
  | 6 => some s.argRate
  | 7 => some (s.argLen.setWidth 32)
  | 8 => some (s.rxlen.setWidth 32)
  | 9 => some (s.resCks.setWidth 32)
  | 10 => some (fwWord s)
  | 11 => some (s.substCnt.setWidth 32)
  | 12 => some (s.substMap.extractLsb' 0 32)
  | 13 => some (s.substMap.extractLsb' 32 32)
  | 14 => some ((s.substMap.extractLsb' 64 11).setWidth 32)
  | 15 => some ((rateIndex s.baudCur).setWidth 32 ||| ((rateIndex s.baudPrev).setWidth 32 <<< 4))
  | 16 => some s.cfgReadyMax
  | 17 => some s.polls
  | n =>
    if 32 ≤ n ∧ n < 32 + Config.txBufBytes then some ((s.txbuf.getD (n - 32) 0#8).setWidth 32)
    else if 64 ≤ n ∧ n < 64 + Config.rxBufBytes then some ((rxByte (n - 64) s).setWidth 32)
    else none

/-- A `CMD` write that starts nothing, because the engine is fatal or busy (10_state R11; 60_exceptions R201; log 28). -/
def cmdIgnored (s : State) : State :=
  if s.status.fatal then s else if s.status.busy then overrun s else s

/-- `TXBUF[k]` takes the byte `v`, and counts as written (10_state R27, R35). -/
def writeTx (k : Nat) (v : Byte) (s : State) : State :=
  { s with txbuf := s.txbuf.set k v, wrote := { s.wrote with txbuf := s.wrote.txbuf ||| (1#16 <<< k) } }

/-- `RAW[a]` takes the byte `v`, and counts as written (20_memory R41; 10_state R35). -/
def writeRaw (a : Nat) (v : Byte) (s : State) : State :=
  { s with raw := Memory.put s.raw a [v], rawUnwritten := Ranges.remove s.rawUnwritten a 1 }

/-- `IMG[a]` takes the word `v` (20_memory R41). -/
def writeImg (a : Nat) (v : Word16) (s : State) : State := { s with img := Memory.put s.img a [v] }

/-- A host write of register `no` (10_state R10, R16): the register takes the low bits it has (log 23), a read-only one
nothing. The number 0 comes here only when the write starts nothing. -/
def regWrite (no : Nat) (v : Word32) (s : State) : Outcome :=
  match no with
  | 0 => .next (cmdIgnored s)
  | 4 => .next { s with argTicks := v.setWidth 24, wrote := { s.wrote with ticks := true } }
  | 5 => .next { s with argFlags := v.setWidth 3, wrote := { s.wrote with flags := true } }
  | 6 => .next { s with argRate := v, wrote := { s.wrote with rate := true } }
  | 7 => .next { s with argLen := v.setWidth 16, wrote := { s.wrote with len := true } }
  | 16 => .next { s with cfgReadyMax := v }
  | n =>
    if 32 ≤ n ∧ n < 32 + Config.txBufBytes then
      if s.status.busy then .refused .txBufWhileBusy
      else .next (writeTx (n - 32) (v.setWidth 8) s)
    else if (regRead n s).isSome then .next s
    else .fault (.noRegister n)

/-- The value of a host read goes to the host. -/
def handOver (v : Word32) (s : State) : State := { s with readback := s.readback ++ [v] }

/-- An access to a memory port: refused while busy (20_memory R41), a fault outside the memory (20_memory R40). -/
def memoryPort (inside : Bool) (outside : Fault) (access : State → State) (s : State) : Outcome :=
  if s.status.busy then .refused .memoryWhileBusy
  else if inside then .next (access s) else .fault outside

/-- A byte of `RAW` (20_memory R41; log 17). -/
def rawByte (a : Nat) (s : State) : Byte := (Memory.lookup s.raw a).getD (Config.rawContent s.memEpoch a)

/-- A word of `IMG` (20_memory R41; log 17). -/
def imgWord (a : Nat) (s : State) : Word16 := (Memory.lookup s.img a).getD (Config.imgContent s.memEpoch a)

/-- The `reset` input: every piece of the engine's state takes its reset value, what is outside the engine stays
(70_reset R230, R231; log 24). -/
def resetNow (s : State) : State :=
  { State.reset with
    cancel := s.cancel
    lineRate := s.lineRate
    answers := s.answers
    draws := s.draws
    traffic := s.traffic
    host := s.host
    readback := s.readback
    memEpoch := s.memEpoch + 1
    blkEpoch := s.blkEpoch + 1
    rxEpoch := s.rxEpoch + 1 }

/-- One host action that starts no operation. -/
def hostPort (a : HostAct) (s : State) : Outcome :=
  match a with
  | .engine => .next s
  | .writeReg no v => regWrite no v s
  | .readReg no =>
    match regRead no s with
    | some v => .next (handOver v s)
    | none => .fault (.noRegister no)
  | .writeRaw addr v => memoryPort (decide (addr < rawBytes)) (.noRawByte addr) (writeRaw addr v) s
  | .readRaw addr =>
    memoryPort (decide (addr < rawBytes)) (.noRawByte addr) (fun s => handOver ((rawByte addr s).setWidth 32) s) s
  | .writeImg addr v => memoryPort (decide (addr < imgWords)) (.noImgWord addr) (writeImg addr v) s
  | .readImg addr =>
    memoryPort (decide (addr < imgWords)) (.noImgWord addr) (fun s => handOver ((imgWord addr s).setWidth 32) s) s
  | .setCancel level => .next { s with cancel := level }
  | .reset => .next (resetNow s)

end Sys2Proof.Machine
end

