-- ==== Sys2Proof/Machine/Fetch.lean ====
section
/-! DEFINITION. What the next step runs. The engine fetches no instruction from a memory (20_memory R54): an
instruction comes from the host's `CMD` write (10_state R11), and while an operation runs, from the sequencer: in a
state that writes a frame of 30_encoding R71 it is that frame, in any other the code in `OPL` (logs 1, 2, 6). -/

namespace Sys2Proof.Machine

/-- The payload of the single-command operation in `OPL`: command byte and arguments (46_device_control R171 to R179). -/
def controlPayload (l : Latches) : Option (Byte × List Byte) :=
  if l.op = 0x10#8 then some (0x45#8, [])
  else if l.op = 0x11#8 then some (0x4F#8, [])
  else if l.op = 0x12#8 then some (0x43#8, [])
  else if l.op = 0x13#8 then some (0x4B#8, [])
  else if l.op = 0x14#8 then some (0x41#8, [])
  else if l.op = 0x15#8 then some (0x56#8, [])
  else if l.op = 0x16#8 then some (0x67#8, [bitByte l.on])
  else if l.op = 0x17#8 then some (0x55#8, [bitByte l.on])
  else none

/-- The payload the sequencer writes in its present state, if that state writes a frame of 30_encoding R71. -/
def seqPayload (s : State) : Option (Byte × List Byte) :=
  match s.seq with
  | .dcTx => controlPayload s.latch
  | .bnCmd => (rateOf s.latch.rate).map (fun r => (0x42#8, [rateDigit r]))
  | .bnTest => some (0x54#8, testArgs)
  | .bnConf => some (0x6B#8, [])
  | .exTx => some (0x54#8, exposureArgs s.latch)
  | .riX => some (0x58#8, [])
  | .riAck => some (0x4B#8, [])
  | .riRetry => some (0x52#8, [])
  | .riAbort => some (0x53#8, [])
  | _ => none

/-- The bytes of the instruction the busy sequencer stands at. -/
def seqWord (s : State) : List Byte :=
  match seqPayload s with
  | some p => emitFrame p.1 p.2 s
  | none => [s.latch.op]

/-- The bytes of the instruction the next step runs; `none` where the step is a host access that starts nothing, or
nothing at all. -/
def fetch (s : State) : Option (List Byte) :=
  match s.host with
  | .writeReg 0 v :: _ => if s.status.busy || s.status.fatal then none else some [v.setWidth 8]
  | .engine :: _ => if s.status.busy && !s.status.fatal then some (seqWord s) else none
  | [] => if s.status.busy && !s.status.fatal then some (seqWord s) else none
  | _ => none

/-- The host action of this step is taken. -/
def popHost (s : State) : State := { s with host := s.host.tail }

/-- A step that runs no instruction: a host access, or a machine that waits (10_state R14, `IDLE`; 60_exceptions R198,
`FATAL`; log 29). -/
def portStep (s : State) : Outcome :=
  match s.host with
  | [] => .next s
  | a :: _ => hostPort a (popHost s)

/-- Bytes that are no instruction: the start of a reserved code (30_encoding R82). -/
def undecoded (bytes : List Byte) (s : State) : Outcome :=
  match bytes with
  | [op] => if s.status.busy then .refused .reservedWhileBusy else .next (startReserved op s)
  | _ => .refused .reservedWhileBusy

-- Placing an instruction where the next step fetches it (log 2)

/-- The host is about to write `op` to `CMD` of an idle engine, and has written every operand (10_state R35): the operands
have the values they have. -/
def placeCommand (op : Byte) (s : State) : State :=
  { s with
    seq := .idle
    status := { s.status with busy := false, fatal := false }
    wrote := HostWrites.everything
    rawUnwritten := []
    host := .writeReg 0 (op.setWidth 32) :: s.host }

/-- The sequencer runs operation `l.op` with the latches `l` and stands at `q`. -/
def placeSeq (l : Latches) (q : Seq) (s : State) : State :=
  { s with
    seq := q
    latch := l
    status := ⟨true, false, false, false⟩
    host := .engine :: s.host }

/-- The sequencer stands where it writes the frame. -/
def placeFrame (i : Instr) (s : State) : State :=
  match i with
  | .frameE => placeSeq { s.latch with op := 0x10#8 } .dcTx s
  | .frameO => placeSeq { s.latch with op := 0x11#8 } .dcTx s
  | .frameC => placeSeq { s.latch with op := 0x12#8 } .dcTx s
  | .frameK => placeSeq { s.latch with op := 0x13#8 } .dcTx s
  | .frameA => placeSeq { s.latch with op := 0x14#8 } .dcTx s
  | .frameV => placeSeq { s.latch with op := 0x15#8 } .dcTx s
  | .frameG0 => placeSeq { s.latch with op := 0x16#8, on := false } .dcTx s
  | .frameG1 => placeSeq { s.latch with op := 0x16#8, on := true } .dcTx s
  | .frameU0 => placeSeq { s.latch with op := 0x17#8, on := false } .dcTx s
  | .frameU1 => placeSeq { s.latch with op := 0x17#8, on := true } .dcTx s
  | .frameB0 => placeSeq { s.latch with op := 0x03#8, rate := rateBps .r9600 } .bnCmd s
  | .frameB1 => placeSeq { s.latch with op := 0x03#8, rate := rateBps .r19200 } .bnCmd s
  | .frameB2 => placeSeq { s.latch with op := 0x03#8, rate := rateBps .r38400 } .bnCmd s
  | .frameB3 => placeSeq { s.latch with op := 0x03#8, rate := rateBps .r57600 } .bnCmd s
  | .frameB4 => placeSeq { s.latch with op := 0x03#8, rate := rateBps .r115200 } .bnCmd s
  | .frameB5 => placeSeq { s.latch with op := 0x03#8, rate := rateBps .r230400 } .bnCmd s
  | .frameB6 => placeSeq { s.latch with op := 0x03#8, rate := rateBps .r460800 } .bnCmd s
  | .frameTest => placeSeq { s.latch with op := 0x03#8 } .bnTest s
  | .frameKconf => placeSeq { s.latch with op := 0x03#8 } .bnConf s
  | .frameT ticks light =>
    placeSeq { s.latch with op := 0x04#8, ticks := BitVec.ofNat 24 ticks, light := light } .exTx s
  | .frameX => placeSeq { s.latch with op := 0x05#8 } .riX s
  | .frameR => placeSeq { s.latch with op := 0x05#8 } .riRetry s
  | .frameS => placeSeq { s.latch with op := 0x05#8 } .riAbort s
  | .cksum | .send | .setbaud | .startexp | .readimg | .decodePix => s
  | .ping | .shopen | .shclose | .shdeen | .abortexp | .fwquery | .heater | .chop => s

/-- The instruction of these bytes is placed where the next step fetches it. -/
def placeBytes (bytes : List Byte) (s : State) : State :=
  match bytes with
  | [op] => placeCommand op s
  | _ =>
    match decode bytes with
    | .ok i => placeFrame i s
    | .error _ => s

end Sys2Proof.Machine
end

