-- ==== Sys2Proof/Machine/Step.lean ====
section
/-! DEFINITION. One step: the instruction that is fetched is decoded and run; where none is fetched, the host's access is
done, or the machine waits. -/

namespace Sys2Proof.Machine

/-- One step of the machine. -/
def step (s : State) : Host.Outcome State Fault Refusal :=
  match fetch s with
  | none => portStep s
  | some bytes =>
    match decode bytes with
    | .ok i => exec i (popHost s)
    | .error _ => undecoded bytes (popHost s)

/-- The instruction of a word of spec/opcode_table.json, placed where the next step fetches it (logs 2, 4, 5). -/
def State.withFetchWord (s : State) (nbits w : Nat) : State :=
  placeBytes (completeTableBytes (tableBytes (nbits / 8) w)) s

end Sys2Proof.Machine
end

