-- ==== Sys2Proof/Safety.lean ====
section
/-! DEFINITION. What claims speak of: where the engine stands, the invariant of the machine, when a frame is due, and the
parts of the state that only one agent writes. -/

namespace Sys2Proof.Machine

/-- The engine accepts a `CMD` write (10_state R11). -/
def Idle (s : State) : Prop := s.status.busy = false ∧ s.status.fatal = false

/-- The engine runs operation `op` and its sequencer is in state `q`. -/
def Running (op : Byte) (q : Seq) (s : State) : Prop :=
  s.status.busy = true ∧ s.status.fatal = false ∧ s.latch.op = op ∧ s.seq = q

/-- Every operand that operation `op` uses has been written since reset (10_state R35; 30_encoding R80; 70_reset R236). For
CKSUM and SEND with a length that their checks turn down, no byte of `TXBUF` is used; the reset value of `CFG_READY_MAX` is
defined (log 16). -/
def OperandsWritten (op : Byte) (s : State) : Prop :=
  let n := (s.argLen.extractLsb' 0 8).toNat
  let m := (s.argLen.extractLsb' 8 8).toNat
  (op = 0x01#8 → s.wrote.len = true ∧ (n ≤ 16 → ∀ k < n, s.wrote.txbuf.getLsbD k = true)) ∧
  (op = 0x02#8 → s.wrote.len = true ∧ (n ≤ 16 → m ≤ 16 → ∀ k < n, s.wrote.txbuf.getLsbD k = true)) ∧
  (op = 0x03#8 → s.wrote.rate = true) ∧
  (op = 0x04#8 → s.wrote.ticks = true ∧ s.wrote.flags = true) ∧
  (op ∈ [0x05#8, 0x06#8, 0x16#8, 0x17#8] → s.wrote.flags = true) ∧
  (op = 0x06#8 → ∀ a < 2 * (480 * imageCols (s.argFlags.getLsbD 1)), Ranges.has s.rawUnwritten a = false)

/-- Which sequencer states belong to which operation (the table of 10_state R14). -/
def belongsTo (q : Seq) (op : Byte) : Bool :=
  match q with
  | .idle | .fatal => false
  | .ckRun => op == 0x01#8
  | .sdTx | .sdRx => op == 0x02#8
  | .dcTx => decide (0x10#8 ≤ op ∧ op ≤ 0x17#8)
  | .dcRx => op == 0x10#8 || op == 0x15#8
  | .bnCheck | .bnCmd | .bnRate | .bnAck | .bnTest | .bnReply | .bnConf | .bnRoll => op == 0x03#8
  | .exTx | .exWait => op == 0x04#8
  | .riX | .riSync | .riBlk | .riAck | .riRetry | .riAbort | .riEpi | .riDec => op == 0x05#8
  | .deRun => op == 0x06#8

/-- The states of READIMG in which a block is in progress. -/
def inBlock (q : Seq) : Bool :=
  match q with
  | .riBlk | .riAck | .riRetry | .riAbort => true
  | .idle | .fatal | .ckRun | .sdTx | .sdRx | .dcTx | .dcRx => false
  | .bnCheck | .bnCmd | .bnRate | .bnAck | .bnTest | .bnReply | .bnConf | .bnRoll => false
  | .exTx | .exWait | .riX | .riSync | .riEpi | .riDec | .deRun => false

/-- The states of SETBAUD after its rate was validated. -/
def afterCheck (q : Seq) : Bool :=
  match q with
  | .bnCmd | .bnRate | .bnAck | .bnTest | .bnReply | .bnConf | .bnRoll => true
  | .idle | .fatal | .ckRun | .sdTx | .sdRx | .dcTx | .dcRx | .bnCheck => false
  | .exTx | .exWait | .riX | .riSync | .riBlk | .riAck | .riRetry | .riAbort | .riEpi | .riDec | .deRun => false

/-- The invariant of the machine: what every state of every run satisfies. -/
structure Inv (s : State) : Prop where
  /-- `SEQ` = `IDLE` exactly when neither busy nor fatal (10_state R14). -/
  idle_iff : s.seq = .idle ↔ Idle s
  /-- `SEQ` = `FATAL` exactly when `STATUS.FATAL` = 1 (10_state R14). -/
  fatal_iff : s.seq = .fatal ↔ s.status.fatal = true
  /-- `BUSY AND DONE` = 0 (10_state R12). -/
  busy_done : (s.status.busy && s.status.done) = false
  /-- No operation runs while fatal (10_state R12). -/
  busy_fatal : (s.status.busy && s.status.fatal) = false
  /-- A busy sequencer is in a state of its operation (10_state R14). -/
  seq_op : s.status.busy = true → belongsTo s.seq s.latch.op = true
  /-- `ERR` is 0 until the error entry (10_state R13). -/
  err_clear : s.status.busy = true → s.err = ErrReg.none
  /-- Bits 0 and 11 to 31 of `ESTICKY` read 0 (10_state R15). -/
  sticky_bits : s.esticky &&& 0xFFFFF801#32 = 0#32
  /-- `ATT` never exceeds 5 and `BLK` never exceeds `NBLK` (10_state R24). -/
  att_le : s.att ≤ 5#3
  blk_le : s.blk ≤ s.nblk
  nblk_le : s.nblk ≤ 75#7
  /-- While a block is in progress the block count is the image's and the index is below it (44_transfer R142, R148). -/
  in_block : inBlock s.seq = true → s.nblk = blockCount s.latch.crop ∧ s.blk < s.nblk ∧ s.substCnt ≤ s.blk
  /-- `RI_RETRY` is entered only with `ATT` at most 4, `RI_ABORT` only with `ATT` = 5 (44_transfer R146, R147). -/
  retry_att : s.seq = .riRetry → s.att < 5#3
  abort_att : s.seq = .riAbort → s.att = 5#3
  /-- The epilogue is read when all blocks are finished (44_transfer R148). -/
  epi_blk : s.seq = .riEpi → s.blk = s.nblk
  /-- `SUBST_CNT` is 0..75, and 0 until the first block (10_state R21; 44_transfer R141). -/
  subst_le : s.substCnt ≤ 75#7
  subst_sync : s.seq = .riSync → s.substCnt = 0#7
  /-- `POLLS` never passes the bound (43_exposure R135). -/
  polls_le : s.seq = .exWait → s.polls ≤ s.latch.readyMax
  /-- The requested rate is one of the seven once it was checked (42_baud R121). -/
  rate_ok : afterCheck s.seq = true → (rateOf s.latch.rate).isSome = true
  /-- SEND reads between 1 and 16 bytes (41_dispatcher R112, R114). -/
  resp_ok : s.seq = .sdRx → 0 < s.latch.resplen.toNat ∧ s.latch.resplen.toNat ≤ Config.rxBufBytes
  /-- The buffers have their sizes and `RXLEN` counts bytes of `RXBUF` (10_state R18, R27). -/
  tx_size : s.txbuf.length = Config.txBufBytes
  rx_size : s.rxbuf.length = Config.rxBufBytes
  rx_len : s.rxlen.toNat ≤ Config.rxBufBytes
  /-- The memories are in canonical form and hold only addresses that exist (20_memory R40). -/
  raw_wf : Memory.wf s.raw = true
  raw_in : Memory.within rawBytes s.raw = true
  img_wf : Memory.wf s.img = true
  img_in : Memory.within imgWords s.img = true
  /-- The unwritten addresses of `RAW` are a set in canonical form, of addresses that exist and that are not listed. -/
  unwritten_wf : Ranges.wf s.rawUnwritten = true
  unwritten_in : ∀ x ∈ s.rawUnwritten, x.2 ≤ rawBytes
  unwritten_raw : ∀ c ∈ s.raw, Ranges.has s.rawUnwritten c.1 = false
  /-- READIMG has written every block below `BLK` and the accepted one, and a decode reads no byte that nothing has
  written (10_state R35; 45_decoder R167). -/
  blocks_written : inBlock s.seq = true → Ranges.noneBelow s.rawUnwritten (blockBytes * s.blk.toNat) = true
  accepted_written : s.seq = .riAck → Ranges.noneBelow s.rawUnwritten (blockBytes * s.blk.toNat + blockBytes) = true
  stream_written : s.seq = .riEpi ∨ s.seq = .riDec ∨ s.seq = .deRun →
    Ranges.noneBelow s.rawUnwritten (streamBytes s.latch.crop) = true

/-- The number of blocks the map marks (10_state R21). -/
def markedBlocks (m : BitVec 75) : Nat := ((List.range 75).filter (fun k => m.getLsbD k)).length

/-- `SUBST_CNT` counts the marks of `SUBST_MAP`, and while READIMG reads blocks no block at or after the present one
is marked (10_state R21; 44_transfer R141, R147). -/
structure SubstInv (s : State) : Prop where
  counts : s.substCnt.toNat = markedBlocks s.substMap
  sync_empty : s.seq = .riSync → s.substMap = 0#75
  later_clear : inBlock s.seq = true → ∀ k, s.blk.toNat ≤ k → s.substMap.getLsbD k = false

/-- The engine is where it writes frame `i` of 30_encoding R71 (the column "written by"); no host operation is a
frame. -/
def due (i : Instr) (s : State) : Prop :=
  match i with
  | .frameE => Running 0x10#8 .dcTx s
  | .frameO => Running 0x11#8 .dcTx s
  | .frameC => Running 0x12#8 .dcTx s
  | .frameK => Running 0x13#8 .dcTx s ∨ Running 0x05#8 .riAck s
  | .frameA => Running 0x14#8 .dcTx s
  | .frameV => Running 0x15#8 .dcTx s
  | .frameG0 => Running 0x16#8 .dcTx s ∧ s.latch.on = false
  | .frameG1 => Running 0x16#8 .dcTx s ∧ s.latch.on = true
  | .frameU0 => Running 0x17#8 .dcTx s ∧ s.latch.on = false
  | .frameU1 => Running 0x17#8 .dcTx s ∧ s.latch.on = true
  | .frameB0 => Running 0x03#8 .bnCmd s ∧ s.latch.rate = 9600#32
  | .frameB1 => Running 0x03#8 .bnCmd s ∧ s.latch.rate = 19200#32
  | .frameB2 => Running 0x03#8 .bnCmd s ∧ s.latch.rate = 38400#32
  | .frameB3 => Running 0x03#8 .bnCmd s ∧ s.latch.rate = 57600#32
  | .frameB4 => Running 0x03#8 .bnCmd s ∧ s.latch.rate = 115200#32
  | .frameB5 => Running 0x03#8 .bnCmd s ∧ s.latch.rate = 230400#32
  | .frameB6 => Running 0x03#8 .bnCmd s ∧ s.latch.rate = 460800#32
  | .frameTest => Running 0x03#8 .bnTest s
  | .frameKconf => Running 0x03#8 .bnConf s
  | .frameT ticks light => Running 0x04#8 .exTx s ∧ s.latch.ticks.toNat = ticks ∧ s.latch.light = light
  | .frameX => Running 0x05#8 .riX s
  | .frameR => Running 0x05#8 .riRetry s
  | .frameS => Running 0x05#8 .riAbort s
  | .cksum | .send | .setbaud | .startexp | .readimg | .decodePix => False
  | .ping | .shopen | .shclose | .shdeen | .abortexp | .fwquery | .heater | .chop => False

/-- The next step is the engine's: no host action waits, or the host stands by. -/
def EngineTurn (s : State) : Prop := s.host = [] ∨ ∃ rest, s.host = .engine :: rest

/-- The host is not about to assert `reset`. -/
def NoReset (s : State) : Prop := s.host.head? ≠ some .reset

/-- The same engine with other operand and configuration registers (10_state R16, R23). -/
def withOperands (ticks : BitVec 24) (flags : BitVec 3) (rate : Word32) (len : BitVec 16) (readyMax : Word32)
    (s : State) : State :=
  { s with argTicks := ticks, argFlags := flags, argRate := rate, argLen := len, cfgReadyMax := readyMax }

/-- `k` steps of the machine, stopping at the first fault or refusal. -/
def steps : Nat → State → Outcome
  | 0, s => .next s
  | k + 1, s =>
    match step s with
    | .next t => steps k t
    | .fault f => .fault f
    | .refused r => .refused r

/-- The fourteen host operations: code, instruction, first state of the sequencer (30_encoding R80; 10_state R14). -/
def hostOps : List (Byte × Instr × Seq) :=
  [(0x01#8, .cksum, .ckRun), (0x02#8, .send, .sdTx), (0x03#8, .setbaud, .bnCheck), (0x04#8, .startexp, .exTx),
   (0x05#8, .readimg, .riX), (0x06#8, .decodePix, .deRun), (0x10#8, .ping, .dcTx), (0x11#8, .shopen, .dcTx),
   (0x12#8, .shclose, .dcTx), (0x13#8, .shdeen, .dcTx), (0x14#8, .abortexp, .dcTx), (0x15#8, .fwquery, .dcTx),
   (0x16#8, .heater, .dcTx), (0x17#8, .chop, .dcTx)]

/-- The twenty-three wire frames (30_encoding R71). -/
def isFrame (i : Instr) : Prop := 2 ≤ (encode i).length

/-- `frame` was handed to the Transport, `ok` or not: what the emission of a frame leaves behind it (41_dispatcher R110):
the call, the command byte in `LASTCMD`, the checksum in the checksum unit. -/
def written (frame : List Byte) (ok : Bool) (s : State) : State :=
  { callDone (.write frame ok) s with
    lastCmd := frame.headD 0#8
    cksAcc := (frame.getLastD 0#8).setWidth 7
    cksEmpty := false }

/-- The response `r` to a read of `n` bytes is stored (41_dispatcher R115), free values above it (log 11). -/
def received (n : Nat) (r : List Byte) (s : State) : State :=
  { callDone (.read n r) s with
    rxlen := BitVec.ofNat 8 r.length
    rxbuf := rxStore (s.rxEpoch + 1) r
    rxEpoch := s.rxEpoch + 1 }

/-- The answers of the environment to read attempts of one block, each followed by a frame that it accepts. -/
def attemptAnswers (replies : List (List Byte)) : List Answer := replies.flatMap (fun r => [⟨true, r⟩, ⟨true, []⟩])

/-- The Transport calls of read attempts of one block, each with the frame that follows it. -/
def attemptCalls (replies : List (List Byte)) (frame : List Byte) : List LinkCall :=
  replies.flatMap (fun r => [.read 8193 r, .write frame true])

/-- The log records of the first `n` mismatches of block `blk` (60_exceptions R193); the last frame before the first of
them had the command byte `c`, the one before each other is `R`. -/
def mismatchRecords (c : Byte) (blk : BitVec 7) (n : Nat) : List LogRecord :=
  (List.range n).map (fun k => ⟨2#8, 0x05#8, if k = 0 then c else 0x52#8, blk, BitVec.ofNat 3 k⟩)

/-- The errors that can end an operation in a state of the sequencer (the table of 60_exceptions R206). -/
def canRaise (q : Seq) (e : ErrKind) : Bool :=
  match q with
  | .idle | .fatal | .bnAck | .bnReply | .riDec | .deRun => false
  | .ckRun => e == .invalidOperation
  | .sdTx => e == .invalidOperation || e == .transportFatal
  | .sdRx | .dcRx | .riSync | .riEpi => e == .communicationTimeout
  | .bnCheck => e == .invalidBaudRate
  | .dcTx | .bnCmd | .bnTest | .bnConf | .bnRate | .exTx => e == .transportFatal
  | .bnRoll => e == .transportFatal || e == .baudNegotiationFailed
  | .exWait => e == .cancelled || e == .exposureTimedOut
  | .riX | .riAck | .riRetry | .riAbort => e == .transportFatal
  | .riBlk => e == .cancelled || e == .communicationTimeout

/-- A full read of a block whose trailer is the LRC of its payload (40_checksum R105). -/
def goodRead (r : List Byte) : Prop := r.length = 8193 ∧ lrc (r.take 8192) = r.getD 8192 0#8

/-- A full read of a block whose trailer is not the LRC of its payload. -/
def badRead (r : List Byte) : Prop := r.length = 8193 ∧ lrc (r.take 8192) ≠ r.getD 8192 0#8

end Sys2Proof.Machine
end

