-- ==== Sys2Proof/Certificates/Slice0/Obligations.lean ====
section
/-! DEFINITION. The statements for the provers. Each docstring names the rules of spec/ it formalises; where a clause
rests on a choice of the model, it names the log entry. -/

open Sys2Proof Sys2Proof.Machine

-- Encoding (30_encoding)

/-- Decode undoes encode, with every operand at every value the encoding admits (R60 to R64, R67 to R71, R80, R81). -/
def Obligations.DecodeUndoesEncode : Prop :=
  ∀ i : Instr, i.wellFormed = true → decode (encode i) = .ok i

/-- Every bytes the decoder accepts are the encoding of the well-formed instruction it answers: no second spelling, and
no checksum byte that is only ignored (R60, R71, R80). -/
def Obligations.DecodedBytesAreTheEncoding : Prop :=
  ∀ (bytes : List Byte) (i : Instr), decode bytes = .ok i → i.wellFormed = true ∧ encode i = bytes

/-- Words written out from the tables of R71 and R80 decode to what they stand for; the words of the opcode table, byte 0
leftmost (log 4), too. -/
def Obligations.WrittenOutWordsDecode : Prop :=
  decode [0x01#8] = .ok .cksum ∧ decode [0x15#8] = .ok .fwquery ∧
  decode [0x45#8, 0x3A#8] = .ok .frameE ∧ decode [0x6B#8, 0x14#8] = .ok .frameKconf ∧
  decode [0x4B#8, 0x34#8] = .ok .frameK ∧ decode [0x67#8, 0x01#8, 0x66#8] = .ok .frameG1 ∧
  decode [0x42#8, 0x34#8, 0x76#8] = .ok .frameB4 ∧
  decode [0x54#8, 0x65#8, 0x73#8, 0x74#8, 0x36#8] = .ok .frameTest ∧
  decode [0x54#8, 0x00#8, 0x27#8, 0x10#8, 0x00#8, 0x01#8, 0x62#8] = .ok (.frameT 10000 true) ∧
  decodeTableWord 8 0x05 = some .readimg ∧ decodeTableWord 16 0x5827 = some .frameX

-- The checksum codec (40_checksum)

/-- The checksum unit computes R100 one byte at a time: after `CksClear` and the absorption of each byte in order,
`CksValue` is `compute` of them and `CKS_EMPTY` is 0 (R101). -/
def Obligations.ChecksumUnitComputes : Prop :=
  ∀ (s : State) (bs : List Byte), bs ≠ [] →
    compute bs = some (cksValue (cksAbsorbAll bs (cksClear s))) ∧ (cksAbsorbAll bs (cksClear s)).cksEmpty = false

/-- The seven laws of `compute` (R106), in their order, for every non-empty sequence; on the empty one it has no value
(R103). -/
def Obligations.ComputeLaws : Prop :=
  compute [] = none ∧ ∀ bs : List Byte, bs ≠ [] → ∃ c : Byte, compute bs = some c ∧
    c = (bs.foldl (· ^^^ ·) 0#8 ^^^ (if bs.length % 2 = 1 then 0xFF#8 else 0x00#8)) &&& 0x7F#8 ∧
    c.toNat ≤ 127 ∧
    (∀ (k : Nat) (h : k < bs.length), compute (bs.set k (bs[k] ^^^ 0x80#8)) = some c) ∧
    (∀ ds : List Byte, List.Perm bs ds → compute ds = some c) ∧
    (∀ b : Byte, compute [b] = some (~~~b &&& 0x7F#8) ∧ (~~~b &&& 0x7F#8).toNat = 127 - (b &&& 0x7F#8).toNat) ∧
    (∀ b : Byte, compute (bs ++ [b]) = some ((c ^^^ ~~~b) &&& 0x7F#8)) ∧
    compute (bs ++ [c]) = some 0x7F#8

/-- Acceptance of a block is that the XOR of all its bytes with the trailer is 0 (R105), and the laws of `lrc` of R107: a
zero block, permutation, the same value in an even number of bytes, one flipped bit. -/
def Obligations.LrcLaws : Prop :=
  ∀ p : List Byte,
    (∀ t : Byte, lrc p = t ↔ (p ++ [t]).foldl (· ^^^ ·) 0#8 = 0#8) ∧
    ((∀ b ∈ p, b = 0#8) → lrc p = 0#8) ∧
    (∀ q : List Byte, List.Perm p q → lrc q = lrc p) ∧
    (∀ (flags : List Bool) (v : Byte), flags.length = p.length → flags.count true % 2 = 0 →
      lrc (List.zipWith (fun b f => if f then b ^^^ v else b) p flags) = lrc p) ∧
    (∀ (k j : Nat) (h : k < p.length), j < 8 → lrc (p.set k (p[k] ^^^ (1#8 <<< j))) ≠ lrc p)

-- The step, the start of an operation, its ends

/-- A step runs the instruction its bytes decode to: it is `exec` of it at the state whose host action of this step is
taken; bytes of a reserved code start and end it; without an instruction the step is the host's access or nothing
(logs 1, 7, 29). -/
def Obligations.StepRunsTheDecodedInstruction : Prop :=
  ∀ s : State,
    (∀ (bytes : List Byte) (i : Instr), fetch s = some bytes → decode bytes = .ok i → step s = exec i (popHost s)) ∧
    (∀ (op : Byte) (e : DecodeError), fetch s = some [op] → decode [op] = .error e → s.status.busy = false →
      step s = .next (startReserved op (popHost s))) ∧
    (fetch s = none → s.host = [] → step s = .next s) ∧
    (∀ (a : HostAct) (rest : List HostAct), fetch s = none → s.host = a :: rest →
      step s = hostPort a { s with host := rest })

/-- On the engine's turn a running operation's next instruction is the frame its sequencer writes there (`due`), or the
operation's own code (logs 1, 6). -/
def Obligations.BusyEngineRunsItsOperation : Prop :=
  ∀ s : State, Inv s → s.status.busy = true → EngineTurn s →
    ∃ i : Instr, i.wellFormed = true ∧ fetch s = some (encode i) ∧ step s = exec i (popHost s) ∧
      (due i s ∨ encode i = [s.latch.op] ∧ ∀ j : Instr, ¬ due j s)

/-- A frame does what the operation that writes it does in that state (R71, "written by"; R84; log 6). -/
def Obligations.FrameIsItsOperationsTransition : Prop :=
  ∀ (i j : Instr) (s : State), due i s → decode [s.latch.op] = .ok j → exec i s = exec j s

/-- A write to `CMD` of an engine that is neither busy nor fatal starts the operation of the low 8 bits: operands latched
(log 8 for the latches the operation does not use), `BUSY` set, `DONE`, `OK`, `ERR`, `RXLEN`, `LASTCMD` cleared, the
sequencer at the operation's first state, and nothing else (R11, R17, R36, R81). The premise: every operand the operation uses
has been written since reset (R35; log 16). -/
def Obligations.CmdWriteStartsTheOperation : Prop :=
  ∀ (s : State) (v : Word32) (rest : List HostAct) (op : Byte) (i : Instr) (q : Seq),
    (op, i, q) ∈ hostOps → Idle s → s.host = .writeReg 0 v :: rest → v.setWidth 8 = op → OperandsWritten op s →
    decode [op] = .ok i ∧
    step s = .next { s with
      host := rest
      latch := ⟨s.argTicks, s.argFlags.getLsbD 0, s.argFlags.getLsbD 1, s.argFlags.getLsbD 2, s.argRate,
        s.argLen.extractLsb' 0 8, s.argLen.extractLsb' 8 8, s.cfgReadyMax, op⟩
      status := ⟨true, false, false, false⟩
      err := ⟨0#8, 0#8, 0#7, 0#3⟩
      rxlen := 0#8
      lastCmd := 0#8
      seq := q }

/-- A start is refused exactly when the operation uses an operand register, a `TXBUF` byte or a `RAW` byte that nothing has
written since reset (R35, R236; log 16 for `CFG_READY_MAX` and for lengths out of range). -/
def Obligations.UnwrittenOperandIsRefused : Prop :=
  ∀ (s : State) (v : Word32) (rest : List HostAct) (op : Byte) (i : Instr) (q : Seq),
    (op, i, q) ∈ hostOps → Idle s → s.host = .writeReg 0 v :: rest → v.setWidth 8 = op →
    (step s = .refused .operandNeverWritten ↔ ¬ OperandsWritten op s)

/-- A write to `CMD` while busy sets `ESTICKY[10]` and changes nothing else; while fatal it changes nothing (R11,
R201). -/
def Obligations.CmdWriteThatStartsNothing : Prop :=
  ∀ (s : State) (v : Word32) (rest : List HostAct), s.host = .writeReg 0 v :: rest →
    (s.status.busy = true → s.status.fatal = false →
      step s = .next { s with host := rest, esticky := s.esticky ||| 0x400#32 }) ∧
    (s.status.fatal = true → step s = .next { s with host := rest })

/-- Starting a reserved code writes nothing to the link and ends at once by `raise InvalidOperation`: `ERR` is code 9 with
no command byte, one log record, `ESTICKY[9]`; the decoder rejects these codes by name, and no other (R82, R200; that start
and raise are one step: log 7). -/
def Obligations.ReservedCodeRaises : Prop :=
  (∀ op : Byte, decode [op] = .error (.reservedCode op) ↔
    op = 0x00#8 ∨ (0x07#8 ≤ op ∧ op ≤ 0x0F#8) ∨ 0x18#8 ≤ op) ∧
  ∀ (s : State) (v : Word32) (rest : List HostAct) (op : Byte), Idle s → s.host = .writeReg 0 v :: rest →
    v.setWidth 8 = op → (op = 0x00#8 ∨ (0x07#8 ≤ op ∧ op ≤ 0x0F#8) ∨ 0x18#8 ≤ op) →
    step s = .next { s with
      host := rest
      latch := latchOperands op s
      status := ⟨false, true, false, false⟩
      err := ⟨9#8, 0#8, 0#7, 0#3⟩
      esticky := s.esticky ||| 0x200#32
      log := s.log ++ [⟨9#8, op, 0#8, 0#7, 0#3⟩]
      rxlen := 0#8
      lastCmd := 0#8
      seq := .idle }

/-- The error entry does exactly what R205 lists, with the codes of R191; the normal end exactly what R204 lists; a logged
error exactly what R215 lists. -/
def Obligations.EntryEndAndLogAreExact : Prop :=
  (∀ (e : ErrKind) (blk : BitVec 7) (att : BitVec 3) (s : State),
    raise e blk att s = { s with
      err := ⟨e.code, s.lastCmd, blk, att⟩
      esticky := s.esticky ||| (1#32 <<< e.code.toNat)
      log := s.log ++ [⟨e.code, s.latch.op, s.lastCmd, blk, att⟩]
      status := ⟨false, true, false, if e = .transportFatal then true else s.status.fatal⟩
      seq := if e = .transportFatal then .fatal else .idle } ∧
    logError e blk att s = { s with
      log := s.log ++ [⟨e.code, s.latch.op, s.lastCmd, blk, att⟩]
      esticky := s.esticky ||| (1#32 <<< e.code.toNat) }) ∧
  (∀ (ok : Bool) (s : State), complete ok s = { s with status := ⟨false, true, ok, s.status.fatal⟩, seq := .idle }) ∧
  [ErrKind.communicationTimeout, .checksumMismatch, .blockTransferAborted, .invalidBaudRate, .baudNegotiationFailed,
    .exposureTimedOut, .transportFatal, .cancelled, .invalidOperation, .overrun].map ErrKind.code =
    [1#8, 2#8, 3#8, 4#8, 5#8, 6#8, 7#8, 8#8, 9#8, 10#8]

/-- A step that ends an operation with an error ends it with one that R206 lists for the state it left, and the entry
wrote that error's code. -/
def Obligations.ErrorExitsAreTheTable : Prop :=
  ∀ s t : State, Inv s → EngineTurn s → s.status.busy = true → step s = .next t → t.status.busy = false →
    t.err = ErrReg.none ∨
    ∃ e : ErrKind, canRaise s.seq e = true ∧ t.err.code = e.code ∧ t.err.cmdb = t.lastCmd ∧ t.status.ok = false ∧
      (t.status.fatal = true ↔ e = .transportFatal)

/-- In `FATAL` the engine takes no step and accepts no operation: as long as the host does not assert `reset`, nothing
changes but what the host itself writes: operand registers, `TXBUF`, `RAW`, `IMG`, `cancel`, and the model's lists of host
actions and of values read (R198; log 30). -/
def Obligations.FatalAbsorbs : Prop :=
  ∀ s t : State, s.status.fatal = true → NoReset s → step s = .next t →
    t = { s with
      argTicks := t.argTicks
      argFlags := t.argFlags
      argRate := t.argRate
      argLen := t.argLen
      cfgReadyMax := t.cfgReadyMax
      txbuf := t.txbuf
      wrote := t.wrote
      raw := t.raw
      rawUnwritten := t.rawUnwritten
      img := t.img
      cancel := t.cancel
      host := t.host
      readback := t.readback }

/-- The state after reset has every value that R34 gives, and the `reset` input brings the engine there from any state,
`FATAL` and the middle of an operation included, without reaching the Transport (R230, R231); no operand is written then
(R35). What else the two states hold is the model's choice: logs 2, 3, 14 to 20, 24. -/
def Obligations.ResetLeavesTheGivenValues : Prop :=
  (∀ t : State, (t = State.reset ∨ ∃ (s : State) (rest : List HostAct), s.host = .reset :: rest ∧ step s = .next t) →
    t.seq = .idle ∧ t.status = ⟨false, false, false, false⟩ ∧ t.err = ⟨0#8, 0#8, 0#7, 0#3⟩ ∧ t.esticky = 0#32 ∧
    t.rxlen = 0#8 ∧ t.substCnt = 0#7 ∧ t.substMap = 0#75 ∧ t.baudCur = Config.baudInit ∧
    t.baudPrev = Config.baudInit ∧ t.cfgReadyMax = 0#32 ∧ t.polls = 0#32 ∧ t.nblk = 0#7 ∧ t.blk = 0#7 ∧
    t.att = 0#3 ∧ t.lastCmd = 0#8 ∧ t.cksEmpty = true ∧ t.log = [] ∧ t.done = false ∧
    t.wrote = ⟨false, false, false, false, 0#16⟩ ∧
    ∀ a : Nat, Ranges.has t.rawUnwritten a = true ↔ a < 614400) ∧
  ∀ (s : State) (rest : List HostAct), s.host = .reset :: rest →
    ∃ t : State, step s = .next t ∧ t.lineRate = s.lineRate ∧ t.answers = s.answers ∧ t.draws = s.draws ∧
      t.traffic = s.traffic ∧ t.cancel = s.cancel ∧ t.host = rest

-- CKSUM and SEND (40_checksum, 41_dispatcher)

/-- CKSUM of 1 to 16 bytes completes with `RES_CKS` = `compute` of them, and changes nothing but the checksum unit, the
status and the sequencer (R102); with any other length it raises `InvalidOperation` and `RES_CKS` stays (R103). -/
def Obligations.CksumResult : Prop :=
  ∀ s : State, Running 0x01#8 .ckRun s → s.txbuf.length = 16 →
    (1 ≤ s.latch.txlen.toNat → s.latch.txlen.toNat ≤ 16 → ∃ c : Byte,
      compute (s.txbuf.take s.latch.txlen.toNat) = some c ∧
      exec .cksum s = .next { s with
        resCks := c
        cksAcc := c.setWidth 7
        cksEmpty := false
        status := ⟨false, true, true, false⟩
        seq := .idle }) ∧
    (s.latch.txlen.toNat = 0 ∨ 16 < s.latch.txlen.toNat → exec .cksum s = .next (raise .invalidOperation 0#7 0#3 s))

/-- SEND writes the frame of `TXBUF[0..n-1]` and its checksum, and then completes (m = 0) or goes on to the read (R112,
R110, R65); for the lengths R114 names it raises `InvalidOperation` before anything is written. -/
def Obligations.SendWritesTheFrame : Prop :=
  ∀ s : State, Running 0x02#8 .sdTx s →
    (s.txbuf.length = 16 → 1 ≤ s.latch.txlen.toNat → s.latch.txlen.toNat ≤ 16 → s.latch.resplen.toNat ≤ 16 →
      ∃ k : Byte, compute (s.txbuf.take s.latch.txlen.toNat) = some k ∧
        (linkOk s = true → exec .send s = .next
          (if s.latch.resplen = 0#8 then complete true (written (s.txbuf.take s.latch.txlen.toNat ++ [k]) true s)
          else { written (s.txbuf.take s.latch.txlen.toNat ++ [k]) true s with seq := .sdRx })) ∧
        (linkOk s = false → exec .send s = .next
          (raise .transportFatal 0#7 0#3 (written (s.txbuf.take s.latch.txlen.toNat ++ [k]) false s)))) ∧
    (s.latch.txlen.toNat = 0 ∨ 16 < s.latch.txlen.toNat ∨ 16 < s.latch.resplen.toNat →
      exec .send s = .next (raise .invalidOperation 0#7 0#3 s))

/-- SEND's response is stored and the operation completes when all bytes came; a short one is stored too, and raised as
`CommunicationTimeout` (R113, R115; that the judgement is recorded: 92_eei_decisions D8). -/
def Obligations.SendResponse : Prop :=
  ∀ (s : State) (r : List Byte), Running 0x02#8 .sdRx s → r = readLink s.latch.resplen.toNat s →
    (r.length = s.latch.resplen.toNat →
      exec .send s = .next (complete true (received s.latch.resplen.toNat r s))) ∧
    (r.length < s.latch.resplen.toNat →
      exec .send s = .next (raise .communicationTimeout 0#7 0#3 (received s.latch.resplen.toNat r s)))

/-- What the host reads of a stored response: `RXLEN` its length, `RXBUF[i]` its i-th byte (R115, R18). -/
def Obligations.ReceivedBytesAreReadable : Prop :=
  ∀ (s : State) (n : Nat) (r : List Byte), r.length ≤ 16 →
    (received n r s).rxlen.toNat = r.length ∧ (received n r s).rxbuf.length = 16 ∧
    regRead 8 (received n r s) = some (BitVec.ofNat 32 r.length) ∧
    ∀ (k : Nat) (h : k < r.length), regRead (64 + k) (received n r s) = some (r[k].setWidth 32)

-- SETBAUD (42_baud)

/-- SETBAUD rejects every rate outside the set before the link is touched, and saves the current rate otherwise (R121,
R195). -/
def Obligations.SetbaudChecksTheRate : Prop :=
  ∀ s : State, Running 0x03#8 .bnCheck s →
    (s.latch.rate ∉ [9600#32, 19200#32, 38400#32, 57600#32, 115200#32, 230400#32, 460800#32] →
      exec .setbaud s = .next (raise .invalidBaudRate 0#7 0#3 s)) ∧
    (s.latch.rate ∈ [9600#32, 19200#32, 38400#32, 57600#32, 115200#32, 230400#32, 460800#32] →
      exec .setbaud s = .next { s with baudPrev := s.baudCur, seq := .bnCmd })

/-- The transitions of SETBAUD that touch the link (R122, R123, R124, R125); a failed rate switch, forth or back, is
fatal, and `BAUD` stays (R198); the line rate is then not known (R127, log 18). A frame that cannot be written:
FailedWriteIsFatal. -/
def Obligations.SetbaudTransitions : Prop :=
  ∀ (s : State) (r : Rate), s.latch.rate = rateBps r →
    (Running 0x03#8 .bnCmd s → linkOk s = true → exec .setbaud s = .next { written (encode (
      match r with
      | .r9600 => .frameB0 | .r19200 => .frameB1 | .r38400 => .frameB2 | .r57600 => .frameB3
      | .r115200 => .frameB4 | .r230400 => .frameB5 | .r460800 => .frameB6)) true s with seq := .bnRate }) ∧
    (Running 0x03#8 .bnRate s → linkOk s = true → exec .setbaud s = .next
      { callDone (.setBaud r true) s with lineRate := some r, baudCur := r, seq := .bnAck }) ∧
    (Running 0x03#8 .bnAck s → exec .setbaud s = .next
      { callDone (.read 2 (readLink 2 s)) s with seq := .bnTest }) ∧
    (Running 0x03#8 .bnTest s → linkOk s = true → exec .setbaud s = .next
      { written [0x54#8, 0x65#8, 0x73#8, 0x74#8, 0x36#8] true s with seq := .bnReply }) ∧
    (Running 0x03#8 .bnConf s → linkOk s = true → exec .setbaud s = .next
      (complete true (written [0x6B#8, 0x14#8] true s))) ∧
    (Running 0x03#8 .bnRoll s → linkOk s = true → exec .setbaud s = .next (raise .baudNegotiationFailed 0#7 0#3
      { callDone (.setBaud s.baudPrev true) s with lineRate := some s.baudPrev, baudCur := s.baudPrev })) ∧
    (Running 0x03#8 .bnRate s → linkOk s = false → exec .setbaud s = .next (raise .transportFatal 0#7 0#3
      { callDone (.setBaud r false) s with lineRate := none })) ∧
    (Running 0x03#8 .bnRoll s → linkOk s = false → exec .setbaud s = .next (raise .transportFatal 0#7 0#3
      { callDone (.setBaud s.baudPrev false) s with lineRate := none }))

/-- The diagnostic reply is good when seven bytes came and the first six are `"TestOk"`; a short one is logged; every other
one rolls back (R124, R211 item 6). -/
def Obligations.SetbaudJudgesTheReply : Prop :=
  ∀ (s : State) (r : List Byte), Running 0x03#8 .bnReply s → r = readLink 7 s →
    exec .setbaud s = .next (
      if r.length = 7 then
        if r.take 6 = [0x54#8, 0x65#8, 0x73#8, 0x74#8, 0x4F#8, 0x6B#8] then { received 7 r s with seq := .bnConf }
        else { received 7 r s with seq := .bnRoll }
      else { logError .communicationTimeout 0#7 0#3 (received 7 r s) with seq := .bnRoll })

/-- The whole handshake: from the `CMD` write, on a working Transport, with a reply that begins `"TestOk"` and has a
seventh byte, eight steps write `B`n, switch the rate, read two bytes, write `"Test"`, read seven, write `k`, and complete
with the new rate in the mirror and on the line (R120, R126, R127). -/
def Obligations.HandshakeSucceeds : Prop :=
  ∀ (s : State) (r : Rate) (b : Instr) (ack reply x1 x2 x3 x4 : List Byte) (y1 y2 : Bool) (rest : List Answer),
    Idle s → s.host = [.writeReg 0 0x03#32] → s.argRate = rateBps r → s.wrote.rate = true →
    (r, b) ∈ [(Rate.r9600, Instr.frameB0), (.r19200, .frameB1), (.r38400, .frameB2), (.r57600, .frameB3),
      (.r115200, .frameB4), (.r230400, .frameB5), (.r460800, .frameB6)] →
    reply.length = 7 → reply.take 6 = [0x54#8, 0x65#8, 0x73#8, 0x74#8, 0x4F#8, 0x6B#8] →
    s.answers = [⟨true, x1⟩, ⟨true, x2⟩, ⟨y1, ack⟩, ⟨true, x3⟩, ⟨y2, reply⟩, ⟨true, x4⟩] ++ rest →
    ∃ t : State, steps 8 s = .next t ∧
      t.traffic = s.traffic ++ [.write (encode b) true, .setBaud r true, .read 2 (ack.take 2),
        .write [0x54#8, 0x65#8, 0x73#8, 0x74#8, 0x36#8] true, .read 7 reply, .write [0x6B#8, 0x14#8] true] ∧
      t.answers = rest ∧ t.lineRate = some r ∧ t.baudCur = r ∧ t.baudPrev = s.baudCur ∧
      t.status = ⟨false, true, true, false⟩ ∧ t.seq = .idle ∧ t.err = ErrReg.none ∧ t.log = s.log ∧
      t.esticky = s.esticky ∧ t.rxlen = 7#8 ∧ t.raw = s.raw ∧ t.img = s.img ∧ t.txbuf = s.txbuf

/-- The whole handshake with any other reply: the previous rate is set again, nothing is written after `"Test"`, and the
operation ends with `BaudNegotiationFailed`, the short reply's record before it (R125, R126, R127, R211 item 6). -/
def Obligations.HandshakeRollsBack : Prop :=
  ∀ (s : State) (r : Rate) (b : Instr) (ack reply x1 x2 x3 x4 : List Byte) (y1 y2 : Bool) (rest : List Answer),
    Idle s → s.host = [.writeReg 0 0x03#32] → s.argRate = rateBps r → s.wrote.rate = true →
    (r, b) ∈ [(Rate.r9600, Instr.frameB0), (.r19200, .frameB1), (.r38400, .frameB2), (.r57600, .frameB3),
      (.r115200, .frameB4), (.r230400, .frameB5), (.r460800, .frameB6)] →
    reply.length ≤ 7 → (reply.length = 7 → reply.take 6 ≠ [0x54#8, 0x65#8, 0x73#8, 0x74#8, 0x4F#8, 0x6B#8]) →
    s.answers = [⟨true, x1⟩, ⟨true, x2⟩, ⟨y1, ack⟩, ⟨true, x3⟩, ⟨y2, reply⟩, ⟨true, x4⟩] ++ rest →
    ∃ t : State, steps 8 s = .next t ∧
      t.traffic = s.traffic ++ [.write (encode b) true, .setBaud r true, .read 2 (ack.take 2),
        .write [0x54#8, 0x65#8, 0x73#8, 0x74#8, 0x36#8] true, .read 7 reply, .setBaud s.baudCur true] ∧
      t.answers = rest ∧ t.lineRate = some s.baudCur ∧ t.baudCur = s.baudCur ∧ t.baudPrev = s.baudCur ∧
      t.status = ⟨false, true, false, false⟩ ∧ t.seq = .idle ∧ t.err = ⟨5#8, 0x54#8, 0#7, 0#3⟩ ∧
      t.log = s.log ++ (if reply.length < 7 then [⟨1#8, 0x03#8, 0x54#8, 0#7, 0#3⟩] else []) ++
        [⟨5#8, 0x03#8, 0x54#8, 0#7, 0#3⟩] ∧
      t.raw = s.raw ∧ t.img = s.img ∧ t.txbuf = s.txbuf

-- STARTEXP (43_exposure)

/-- STARTEXP writes the exposure frame: `T`, the latched ticks most significant byte first, 0, the light flag, the
checksum; `POLLS` is cleared, nothing is read (R132, R64, R67, R68). -/
def Obligations.StartexpWritesTheExposureFrame : Prop :=
  ∀ s : State, Running 0x04#8 .exTx s → linkOk s = true → ∃ k : Byte,
    compute [0x54#8, s.latch.ticks.extractLsb' 16 8, s.latch.ticks.extractLsb' 8 8, s.latch.ticks.extractLsb' 0 8,
      0x00#8, if s.latch.light then 0x01#8 else 0x00#8] = some k ∧
    exec .startexp s = .next { written [0x54#8, s.latch.ticks.extractLsb' 16 8, s.latch.ticks.extractLsb' 8 8,
      s.latch.ticks.extractLsb' 0 8, 0x00#8, if s.latch.light then 0x01#8 else 0x00#8, k] true s with
        polls := 0#32
        seq := .exWait }

/-- One poll: cancel first, then the bound, then a read of one byte, which ends the loop only if it is `D` (R133, R134,
R211 item 3). -/
def Obligations.ReadyPollOrder : Prop :=
  ∀ (s : State) (r : List Byte), Running 0x04#8 .exWait s → r = readLink 1 s →
    exec .startexp s = .next (
      if s.cancel then raise .cancelled 0#7 0#3 s
      else if s.latch.readyMax.toNat ≤ s.polls.toNat then raise .exposureTimedOut 0#7 0#3 s
      else if r = [0x44#8] then complete true { callDone (.read 1 r) s with polls := s.polls + 1#32 }
      else { callDone (.read 1 r) s with polls := s.polls + 1#32, seq := .exWait })

/-- The loop times out: when as many polls as the bound leaves bring no `D`, the operation ends with `ExposureTimedOut`,
`POLLS` the bound, every byte dropped, nothing more written (R133, R135, R197). -/
def Obligations.ReadyWaitTimesOut : Prop :=
  ∀ (s : State) (replies : List (List Byte)) (rest : List Answer),
    Running 0x04#8 .exWait s → s.host = [] → s.cancel = false →
    s.polls.toNat + replies.length = s.latch.readyMax.toNat →
    (∀ r ∈ replies, r.take 1 ≠ [0x44#8]) → s.answers = replies.map (fun r => ⟨true, r⟩) ++ rest →
    ∃ t : State, steps (replies.length + 1) s = .next t ∧
      t.polls = s.latch.readyMax ∧ t.err = ⟨6#8, s.lastCmd, 0#7, 0#3⟩ ∧ t.status = ⟨false, true, false, false⟩ ∧
      t.seq = .idle ∧ t.traffic = s.traffic ++ replies.map (fun r => .read 1 (r.take 1)) ∧ t.answers = rest ∧
      t.log = s.log ++ [⟨6#8, 0x04#8, s.lastCmd, 0#7, 0#3⟩] ∧ t.rxbuf = s.rxbuf ∧ t.rxlen = s.rxlen

/-- The loop ends at the first `D`, wherever it comes within the bound, whatever came before it (R133, R134, R135). -/
def Obligations.ReadyWaitEndsAtD : Prop :=
  ∀ (s : State) (noise : List (List Byte)) (d : List Byte) (rest : List Answer),
    Running 0x04#8 .exWait s → s.host = [] → s.cancel = false →
    s.polls.toNat + noise.length < s.latch.readyMax.toNat →
    (∀ r ∈ noise, r.take 1 ≠ [0x44#8]) → d.take 1 = [0x44#8] →
    s.answers = noise.map (fun r => ⟨true, r⟩) ++ ⟨true, d⟩ :: rest →
    ∃ t : State, steps (noise.length + 1) s = .next t ∧
      t.polls.toNat = s.polls.toNat + noise.length + 1 ∧ t.err = s.err ∧ t.status = ⟨false, true, true, false⟩ ∧
      t.seq = .idle ∧ t.traffic = s.traffic ++ noise.map (fun r => .read 1 (r.take 1)) ++ [.read 1 [0x44#8]] ∧
      t.answers = rest ∧ t.log = s.log ∧ t.esticky = s.esticky ∧ t.rxbuf = s.rxbuf ∧ t.rxlen = s.rxlen

-- READIMG (44_transfer)

/-- The start of the transfer: `X`, with the substitution registers cleared; then one sync byte, dropped, which sets the
block count; without it `CommunicationTimeout` with block 0 (R141, R142, R152). -/
def Obligations.ReadimgBegins : Prop :=
  ∀ s : State,
    (Running 0x05#8 .riX s → linkOk s = true → exec .readimg s = .next
      { written [0x58#8, 0x27#8] true s with substCnt := 0#7, substMap := 0#75, seq := .riSync }) ∧
    (Running 0x05#8 .riSync s → (readLink 1 s).length = 1 → exec .readimg s = .next
      { callDone (.read 1 (readLink 1 s)) s with
        nblk := if s.latch.crop then 60#7 else 75#7
        blk := 0#7
        att := 0#3
        seq := .riBlk }) ∧
    (Running 0x05#8 .riSync s → readLink 1 s = [] →
      exec .readimg s = .next (raise .communicationTimeout 0#7 0#3 (callDone (.read 1 []) s)))

/-- One read attempt of a block: cancel before the read (what `RAW` then holds in the block: ShortBlockRead); a full read
is stored at `8192 * BLK`, counts as written (R35), and is accepted exactly when its LRC is the trailer; a mismatch is logged
and goes to the retry while `ATT < 5`, else to the abort (R143, R144, R105, R193, R211 items 4 and 5). -/
def Obligations.BlockReadAttempt : Prop :=
  ∀ (s : State) (r : List Byte), Running 0x05#8 .riBlk s → r = readLink 8193 s →
    (s.cancel = true → ∃ t : State, exec .readimg s = .next t ∧
      t = { raise .cancelled s.blk s.att s with
        raw := t.raw
        rawUnwritten := t.rawUnwritten
        blkEpoch := t.blkEpoch }) ∧
    (s.cancel = false → goodRead r → exec .readimg s = .next
      { callDone (.read 8193 r) s with
        raw := Memory.put s.raw (8192 * s.blk.toNat) (r.take 8192)
        rawUnwritten := Ranges.remove s.rawUnwritten (8192 * s.blk.toNat) 8192
        lrcAcc := r.getD 8192 0#8
        seq := .riAck }) ∧
    (s.cancel = false → badRead r → exec .readimg s = .next
      { callDone (.read 8193 r) s with
        raw := Memory.put s.raw (8192 * s.blk.toNat) (r.take 8192)
        rawUnwritten := Ranges.remove s.rawUnwritten (8192 * s.blk.toNat) 8192
        lrcAcc := lrc (r.take 8192)
        log := s.log ++ [⟨2#8, 0x05#8, s.lastCmd, s.blk, s.att⟩]
        esticky := s.esticky ||| 0x4#32
        seq := if s.att.toNat < 5 then .riRetry else .riAbort })

/-- A short block read is `CommunicationTimeout`, never a mismatch; it, and a cancellation after a mismatch, leave the
block's 8192 bytes without a value that can be known, every other byte of `RAW` and all of `IMG` as they were; a cancellation
before the block's first read leaves all of `RAW` (R143, R144, R154, R211 item 4, 92_eei_decisions D25; log 12 for the form
of the unspecified bytes). That a short read leaves `LRC_ACC` at 0 rests on R26 and log 10. -/
def Obligations.ShortBlockRead : Prop :=
  ∀ (s : State) (r : List Byte), Running 0x05#8 .riBlk s → r = readLink 8193 s →
    (s.cancel = false → r.length < 8193 → ∃ t : State, exec .readimg s = .next t ∧
      (∀ a : Nat, ¬ (8192 * s.blk.toNat ≤ a ∧ a < 8192 * s.blk.toNat + 8192) → rawByte a t = rawByte a s) ∧
      t = { raise .communicationTimeout s.blk s.att (callDone (.read 8193 r) s) with
        raw := t.raw
        rawUnwritten := Ranges.remove s.rawUnwritten (8192 * s.blk.toNat) 8192
        blkEpoch := t.blkEpoch
        lrcAcc := 0#8 }) ∧
    (s.cancel = true → s.att = 0#3 → exec .readimg s = .next (raise .cancelled s.blk 0#3 s)) ∧
    (s.cancel = true → s.att ≠ 0#3 → ∃ t : State, exec .readimg s = .next t ∧
      (∀ a : Nat, ¬ (8192 * s.blk.toNat ≤ a ∧ a < 8192 * s.blk.toNat + 8192) → rawByte a t = rawByte a s) ∧
      t = { raise .cancelled s.blk s.att s with
        raw := t.raw
        rawUnwritten := Ranges.remove s.rawUnwritten (8192 * s.blk.toNat) 8192
        blkEpoch := t.blkEpoch })

/-- An accepted block is acknowledged with `K`, then comes the next block with its own attempt counter, or the epilogue
after the last (R145, R148); a mismatched one is asked for again with `R`, the attempt counter one higher, the same block
(R146). -/
def Obligations.BlockIsAcknowledgedOrRetried : Prop :=
  ∀ s : State, linkOk s = true →
    (Running 0x05#8 .riAck s → exec .readimg s = .next { written [0x4B#8, 0x34#8] true s with
      blk := s.blk + 1#7
      att := 0#3
      seq := if s.blk + 1#7 = s.nblk then .riEpi else .riBlk }) ∧
    (Running 0x05#8 .riRetry s → exec .readimg s = .next
      { written [0x52#8, 0x2D#8] true s with att := s.att + 1#3, seq := .riBlk })

/-- The abort of a block: `S`, a `BlockTransferAborted` record, 8192 zero bytes at `8192 * BLK` and nowhere else, the
substitution count and map, then the next block or the epilogue (R147, R148, R194). -/
def Obligations.AbortedBlockIsSubstituted : Prop :=
  ∀ s : State, Running 0x05#8 .riAbort s → linkOk s = true →
    ∃ t : State, exec .readimg s = .next t ∧
      (∀ a : Nat, rawByte a t =
        if 8192 * s.blk.toNat ≤ a ∧ a < 8192 * s.blk.toNat + 8192 then 0#8 else rawByte a s) ∧
      t = { written [0x53#8, 0x2C#8] true s with
        log := s.log ++ [⟨3#8, 0x05#8, 0x53#8, s.blk, s.att⟩]
        esticky := s.esticky ||| 0x8#32
        raw := t.raw
        rawUnwritten := Ranges.remove s.rawUnwritten (8192 * s.blk.toNat) 8192
        substCnt := s.substCnt + 1#7
        substMap := s.substMap ||| (1#75 <<< s.blk.toNat)
        blk := s.blk + 1#7
        att := 0#3
        seq := if s.blk + 1#7 = s.nblk then .riEpi else .riBlk }

/-- The epilogue: five bytes read and dropped, or `CommunicationTimeout` with the block count; then the decode, which is
DECODE's (R149, R150). -/
def Obligations.ReadimgEnds : Prop :=
  ∀ (s : State) (r : List Byte), r = readLink 5 s →
    (Running 0x05#8 .riEpi s → r.length = 5 →
      exec .readimg s = .next { callDone (.read 5 r) s with seq := .riDec }) ∧
    (Running 0x05#8 .riEpi s → r.length < 5 →
      exec .readimg s = .next (raise .communicationTimeout s.nblk 0#3 (callDone (.read 5 r) s))) ∧
    (Running 0x05#8 .riDec s → exec .readimg s = .next (complete true (decodeRaw s.latch.crop s)))

/-- Six reads of a block that all mismatch: exactly five `R` and one `S`, six `ChecksumMismatch` records and one
`BlockTransferAborted`, the block's bytes zero, the transfer goes on (R151 item 2, R147). -/
def Obligations.SixMismatchesSubstituteTheBlock : Prop :=
  ∀ (s : State) (replies : List (List Byte)) (rest : List Answer),
    Running 0x05#8 .riBlk s → s.att = 0#3 → s.cancel = false → s.host = [] →
    replies.length = 6 → (∀ r ∈ replies, badRead r) → s.answers = attemptAnswers replies ++ rest →
    ∃ t : State, steps 12 s = .next t ∧
      t.traffic = s.traffic ++ attemptCalls (replies.take 5) [0x52#8, 0x2D#8] ++
        attemptCalls (replies.drop 5) [0x53#8, 0x2C#8] ∧
      t.log = s.log ++ mismatchRecords s.lastCmd s.blk 6 ++ [⟨3#8, 0x05#8, 0x53#8, s.blk, 5#3⟩] ∧
      (∀ a : Nat, rawByte a t =
        if 8192 * s.blk.toNat ≤ a ∧ a < 8192 * s.blk.toNat + 8192 then 0#8 else rawByte a s) ∧
      t.substCnt = s.substCnt + 1#7 ∧ t.substMap = s.substMap ||| (1#75 <<< s.blk.toNat) ∧
      t.blk = s.blk + 1#7 ∧ t.att = 0#3 ∧ t.seq = (if s.blk + 1#7 = s.nblk then .riEpi else .riBlk) ∧
      t.status = s.status ∧ t.err = s.err ∧ t.answers = rest ∧ t.img = s.img

/-- A block whose first mismatch-free read is the (f+1)-th, f at most 5: exactly f `R` and then one `K`, f
`ChecksumMismatch` records, the accepted payload in `RAW`, no substitution; a sixth read that matches is accepted like any
other (R151 items 1 and 3). -/
def Obligations.MatchingReadIsAccepted : Prop :=
  ∀ (s : State) (bad : List (List Byte)) (good : List Byte) (rest : List Answer),
    Running 0x05#8 .riBlk s → s.att = 0#3 → s.cancel = false → s.host = [] →
    bad.length ≤ 5 → (∀ r ∈ bad, badRead r) → goodRead good → s.answers = attemptAnswers (bad ++ [good]) ++ rest →
    ∃ t : State, steps (2 * bad.length + 2) s = .next t ∧
      t.traffic = s.traffic ++ attemptCalls bad [0x52#8, 0x2D#8] ++ attemptCalls [good] [0x4B#8, 0x34#8] ∧
      t.log = s.log ++ mismatchRecords s.lastCmd s.blk bad.length ∧
      (∀ a : Nat, rawByte a t =
        if 8192 * s.blk.toNat ≤ a ∧ a < 8192 * s.blk.toNat + 8192 then good.getD (a - 8192 * s.blk.toNat) 0#8
        else rawByte a s) ∧
      t.substCnt = s.substCnt ∧ t.substMap = s.substMap ∧
      t.blk = s.blk + 1#7 ∧ t.att = 0#3 ∧ t.seq = (if s.blk + 1#7 = s.nblk then .riEpi else .riBlk) ∧
      t.status = s.status ∧ t.err = s.err ∧ t.answers = rest ∧ t.img = s.img

/-- A whole transfer without a mismatch, full or cropped: `X` and one `K` a block are written, every payload byte of block
k is at `RAW[8192 * k + j]` and counts as written (R35), the image is the decode of `RAW`, and nothing is logged or
substituted (R140, R151 items 4 to 6, R152, R154, R163). -/
def Obligations.CleanTransferCompletes : Prop :=
  ∀ (s : State) (x0 sync epilogue : List Byte) (y1 y2 : Bool) (replies : List (List Byte)) (rest : List Answer),
    Running 0x05#8 .riX s → s.cancel = false → s.host = [] → Memory.wf s.raw = true →
    replies.length = (if s.latch.crop then 60 else 75) → (∀ r ∈ replies, goodRead r) →
    sync.length = 1 → epilogue.length = 5 →
    s.answers = [⟨true, x0⟩, ⟨y1, sync⟩] ++ attemptAnswers replies ++ [⟨y2, epilogue⟩] ++ rest →
    ∃ t : State, steps (2 * replies.length + 4) s = .next t ∧
      t.status = ⟨false, true, true, false⟩ ∧ t.seq = .idle ∧ t.err = s.err ∧ t.log = s.log ∧
      t.esticky = s.esticky ∧ t.substCnt = 0#7 ∧ t.substMap = 0#75 ∧ t.answers = rest ∧
      t.traffic = s.traffic ++ [.write [0x58#8, 0x27#8] true, .read 1 sync] ++
        attemptCalls replies [0x4B#8, 0x34#8] ++ [.read 5 epilogue] ∧
      (∀ (k j : Nat) (h : k < replies.length), j < 8192 → rawByte (8192 * k + j) t = replies[k].getD j 0#8) ∧
      (∀ a : Nat, 8192 * replies.length ≤ a → rawByte a t = rawByte a s) ∧
      (∀ a : Nat, Ranges.has t.rawUnwritten a = (Ranges.has s.rawUnwritten a && decide (8192 * replies.length ≤ a))) ∧
      (∀ r c : Nat, r < 480 → c < imageCols s.latch.crop →
        imgWord (r * imageCols s.latch.crop + c) t = sample Config.pixOrder
          (rawByte (2 * ((479 - r) * imageCols s.latch.crop + c)) t)
          (rawByte (2 * ((479 - r) * imageCols s.latch.crop + c) + 1) t)) ∧
      (∀ a : Nat, 480 * imageCols s.latch.crop ≤ a → imgWord a t = imgWord a s)

-- DECODE (45_decoder)

/-- The de-interleaver: a sample's two byte orders, one the other byte-swapped (R161, R165 law 7); of a stream of
`2 * 480 * cols` bytes, the buffer has `480 * cols` samples and element (r, c) is sample `(479 - r) * cols + c` (R160,
R163, R165 laws 1, 3, 4). -/
def Obligations.DecodedImageIndex : Prop :=
  (∀ a b : Byte,
    (sample .aLow a b).toNat = a.toNat + 256 * b.toNat ∧ (sample .aHigh a b).toNat = 256 * a.toNat + b.toNat ∧
    (sample .aHigh a b).toNat = (sample .aLow a b).toNat % 256 * 256 + (sample .aLow a b).toNat / 256) ∧
  ∀ (order : PixOrder) (cols : Nat) (bytes : List Byte), bytes.length = 2 * (480 * cols) →
    (decodeImage order cols bytes).length = 480 * cols ∧
    ∀ r c : Nat, r < 480 → c < cols → (decodeImage order cols bytes)[r * cols + c]? =
      some (sample order (bytes.getD (2 * ((479 - r) * cols + c)) 0#8)
        (bytes.getD (2 * ((479 - r) * cols + c) + 1) 0#8))

/-- DECODE completes: word (r, c) of `IMG` is the sample of the bytes at `2i` and `2i + 1` of `RAW` with
i = (479 - r) * cols + c, the words at and above `480 * cols` stay, and nothing else changes but status and sequencer
(R162, R163, R164, R167 (c)); a byte without a defined value reads as a free value (logs 12, 17); a start with bytes that
nothing wrote is refused (UnwrittenOperandIsRefused). -/
def Obligations.DecodeOperation : Prop :=
  ∀ s : State, Running 0x06#8 .deRun s → Memory.wf s.raw = true →
    ∃ t : State, exec .decodePix s = .next t ∧
      (∀ r c : Nat, r < 480 → c < imageCols s.latch.crop →
        imgWord (r * imageCols s.latch.crop + c) t = sample Config.pixOrder
          (rawByte (2 * ((479 - r) * imageCols s.latch.crop + c)) s)
          (rawByte (2 * ((479 - r) * imageCols s.latch.crop + c) + 1) s)) ∧
      (∀ a : Nat, 480 * imageCols s.latch.crop ≤ a → imgWord a t = imgWord a s) ∧
      t = { s with img := t.img, status := ⟨false, true, true, false⟩, seq := .idle }

-- The single commands (46_device_control)

/-- The six commands without a reply write their one frame, read nothing and complete (R170, R172 to R175, R178,
R179). -/
def Obligations.SingleCommandsComplete : Prop :=
  ∀ s : State, linkOk s = true →
    (Running 0x11#8 .dcTx s → exec .shopen s = .next (complete true (written [0x4F#8, 0x30#8] true s))) ∧
    (Running 0x12#8 .dcTx s → exec .shclose s = .next (complete true (written [0x43#8, 0x3C#8] true s))) ∧
    (Running 0x13#8 .dcTx s → exec .shdeen s = .next (complete true (written [0x4B#8, 0x34#8] true s))) ∧
    (Running 0x14#8 .dcTx s → exec .abortexp s = .next (complete true (written [0x41#8, 0x3E#8] true s))) ∧
    (Running 0x16#8 .dcTx s → exec .heater s = .next (complete true (written
      (if s.latch.on then [0x67#8, 0x01#8, 0x66#8] else [0x67#8, 0x00#8, 0x67#8]) true s))) ∧
    (Running 0x17#8 .dcTx s → exec .chop s = .next (complete true (written
      (if s.latch.on then [0x55#8, 0x01#8, 0x54#8] else [0x55#8, 0x00#8, 0x55#8]) true s))) ∧
    (Running 0x10#8 .dcTx s → exec .ping s = .next { written [0x45#8, 0x3A#8] true s with seq := .dcRx }) ∧
    (Running 0x15#8 .dcTx s → exec .fwquery s = .next { written [0x56#8, 0x29#8] true s with seq := .dcRx })

/-- The two-byte replies. PING: `OK` exactly when the second byte is `O`, a wrong one being no error (R171). FWQUERY:
`RES_FW` as R177 decodes it, and `OK` whatever the bytes (R176). A short reply is `CommunicationTimeout`, `RES_FW`
unchanged. -/
def Obligations.TwoByteReplies : Prop :=
  ∀ (s : State) (r : List Byte), r = readLink 2 s →
    (Running 0x10#8 .dcRx s → r.length < 2 →
      exec .ping s = .next (raise .communicationTimeout 0#7 0#3 (received 2 r s))) ∧
    (Running 0x10#8 .dcRx s → ∀ b0 b1 : Byte, r = [b0, b1] →
      exec .ping s = .next (complete (b1 == 0x4F#8) (received 2 r s))) ∧
    (Running 0x15#8 .dcRx s → r.length < 2 →
      exec .fwquery s = .next (raise .communicationTimeout 0#7 0#3 (received 2 r s))) ∧
    (Running 0x15#8 .dcRx s → ∀ major minor : Byte, r = [major, minor] →
      exec .fwquery s = .next (complete true { received 2 r s with
        fwType := if 8 ≤ major.toNat then 0x54#8 else 0x56#8
        fwMajor := if 8 ≤ major.toNat then BitVec.ofNat 8 (major.toNat - 8) else major
        fwMinor := minor }))

-- The frames (30_encoding R71)

/-- Every frame that is due is written, when the Transport takes it: its encoding is the one call, its command byte is in
`LASTCMD`, its checksum in the checksum unit; and what the frame leaves alone is named (R71, R110). -/
def Obligations.DueFrameIsWritten : Prop :=
  ∀ (i : Instr) (s : State), due i s → linkOk s = true →
    ∃ t : State, exec i s = .next t ∧
      t.traffic = s.traffic ++ [.write (encode i) true] ∧
      (∀ a : Nat, (i = .frameS → ¬ (8192 * s.blk.toNat ≤ a ∧ a < 8192 * s.blk.toNat + 8192)) →
        rawByte a t = rawByte a s) ∧
      t = { written (encode i) true s with
        seq := t.seq
        status := if i ∈ [.frameO, .frameC, .frameA, .frameG0, .frameG1, .frameU0, .frameU1, .frameKconf] ∨
            i = .frameK ∧ s.latch.op = 0x13#8 then ⟨false, true, true, false⟩ else s.status
        polls := if s.seq = .exTx then 0#32 else s.polls
        substCnt := if i = .frameX then 0#7 else if i = .frameS then s.substCnt + 1#7 else s.substCnt
        substMap := if i = .frameX then 0#75
          else if i = .frameS then s.substMap ||| (1#75 <<< s.blk.toNat) else s.substMap
        blk := if i = .frameS ∨ s.seq = .riAck then s.blk + 1#7 else s.blk
        att := if i = .frameS ∨ s.seq = .riAck then 0#3 else if i = .frameR then s.att + 1#3 else s.att
        log := if i = .frameS then s.log ++ [⟨3#8, 0x05#8, 0x53#8, s.blk, s.att⟩] else s.log
        esticky := if i = .frameS then s.esticky ||| 0x8#32 else s.esticky
        raw := if i = .frameS then t.raw else s.raw
        rawUnwritten := if i = .frameS then t.rawUnwritten else s.rawUnwritten }

/-- A frame the Transport does not take is fatal: the call fails, `TransportFatal` is raised with the block and attempt while
a block is in progress and 0 elsewhere (R198, R205, R154; log 9), the line rate is not known after one of SETBAUD's (R127; log
18), the block in progress has no value that can be known (U20; log 12), and of the step's other effects only those listed
before the write happened. -/
def Obligations.FailedWriteIsFatal : Prop :=
  ∀ (i : Instr) (s : State), due i s → linkOk s = false →
    ∃ t : State, exec i s = .next t ∧
      (∀ a : Nat, (inBlock s.seq = true → ¬ (8192 * s.blk.toNat ≤ a ∧ a < 8192 * s.blk.toNat + 8192)) →
        rawByte a t = rawByte a s) ∧
      t = { raise .transportFatal (if inBlock s.seq then s.blk else 0#7) (if inBlock s.seq then s.att else 0#3)
          (written (encode i) false s) with
        polls := if s.seq = .exTx then 0#32 else s.polls
        substCnt := if i = .frameX then 0#7 else s.substCnt
        substMap := if i = .frameX then 0#75 else s.substMap
        lineRate := if s.latch.op = 0x03#8 then none else s.lineRate
        raw := if inBlock s.seq then t.raw else s.raw
        rawUnwritten :=
          if inBlock s.seq then Ranges.remove s.rawUnwritten (8192 * s.blk.toNat) 8192 else s.rawUnwritten
        blkEpoch := if inBlock s.seq then t.blkEpoch else s.blkEpoch }

/-- A frame that is not due is refused, and only such a frame: no rule gives it an effect there (R71; the model's form of
it is log 6). -/
def Obligations.FrameNotDueIsRefused : Prop :=
  ∀ (i : Instr) (s : State), isFrame i → (exec i s = .refused .frameNotDue ↔ ¬ due i s)

/-- Every byte sequence a step writes is a payload and the checksum of that payload (R110, R60); outside SEND it is a frame
of the table of R71 that is due. -/
def Obligations.EveryWriteIsAFrame : Prop :=
  ∀ (s t : State) (frame : List Byte) (ok : Bool), Inv s → step s = .next t →
    t.traffic = s.traffic ++ [.write frame ok] →
    (∃ (p : List Byte) (k : Byte), frame = p ++ [k] ∧ compute p = some k) ∧
    (s.latch.op = 0x02#8 ∨ ∃ i : Instr, due i s ∧ encode i = frame)

-- The machine

/-- Every step keeps the invariant (R12, R13, R14, R15, R18, R21, R24, R27, R40, R135, R148). -/
def Obligations.StepKeepsTheInvariant : Prop :=
  ∀ s t : State, Inv s → step s = .next t → Inv t

/-- The state after reset has the invariants. -/
def Obligations.ResetHasTheInvariants : Prop := Inv State.reset ∧ SubstInv State.reset

/-- Every step keeps the count and the map of substituted blocks in agreement, no block marked before its turn (R21,
R147). -/
def Obligations.StepKeepsTheSubstitutionRecord : Prop :=
  ∀ s t : State, Inv s → SubstInv s → step s = .next t → SubstInv t

/-- The engine never stops: on its turn, and at every write of `CMD`, a state with the invariant has a next state,
whatever the environment answers; a write that would start an operation needs its operands written since reset (R35; log
16). -/
def Obligations.EngineNeverStops : Prop :=
  ∀ s : State, Inv s →
    (EngineTurn s ∨
      ∃ v rest, s.host = .writeReg 0 v :: rest ∧ (Idle s → OperandsWritten (v.setWidth 8) s)) →
    ∃ t : State, step s = .next t

/-- A step makes at most one Transport call, and uses up one answer exactly when it makes one: the first scripted one, or,
with none scripted, one free draw (R14; logs 3, 20). -/
def Obligations.OneTransportCallAStep : Prop :=
  ∀ s t : State, step s = .next t →
    (t.traffic = s.traffic ∧ t.answers = s.answers ∧ t.draws = s.draws) ∨
    ∃ c : LinkCall, t.traffic = s.traffic ++ [c] ∧ t.answers = s.answers.tail ∧
      t.draws = if s.answers = [] then s.draws + 1 else s.draws

/-- The bits of `ESTICKY` are never cleared except by reset (R15), and the log only grows (R30). -/
def Obligations.StickyBitsAndLogOnlyGrow : Prop :=
  ∀ s t : State, NoReset s → step s = .next t →
    s.esticky &&& t.esticky = s.esticky ∧ ∃ l : List LogRecord, t.log = s.log ++ l

/-- Only SETBAUD changes `BAUD` and the line rate (R22, R32 (a)), only CKSUM writes `RES_CKS`, only FWQUERY `RES_FW` (R19,
R20); the engine writes neither the operand registers nor `TXBUF` (R16, R27, R40). -/
def Obligations.OnlyTheirOwnersWriteRegisters : Prop :=
  ∀ s t : State, NoReset s → step s = .next t →
    (¬ (s.status.busy = true ∧ s.latch.op = 0x03#8) →
      t.baudCur = s.baudCur ∧ t.baudPrev = s.baudPrev ∧ t.lineRate = s.lineRate) ∧
    (¬ (s.status.busy = true ∧ s.latch.op = 0x01#8) → t.resCks = s.resCks) ∧
    (¬ (s.status.busy = true ∧ s.latch.op = 0x15#8) →
      t.fwType = s.fwType ∧ t.fwMajor = s.fwMajor ∧ t.fwMinor = s.fwMinor) ∧
    (EngineTurn s → t.argTicks = s.argTicks ∧ t.argFlags = s.argFlags ∧ t.argRate = s.argRate ∧
      t.argLen = s.argLen ∧ t.cfgReadyMax = s.cfgReadyMax ∧ t.txbuf = s.txbuf ∧ t.wrote = s.wrote)

/-- An operation reads its latches, never the operand registers: with other values in them, a running operation takes the
same step (R17, R54). -/
def Obligations.RunningOperationReadsItsLatches : Prop :=
  ∀ (s t : State) (ticks : BitVec 24) (flags : BitVec 3) (rate : Word32) (len : BitVec 16) (readyMax : Word32),
    s.status.busy = true → EngineTurn s → step s = .next t →
    step (withOperands ticks flags rate len readyMax s) = .next (withOperands ticks flags rate len readyMax t)

/-- `cancel` is sampled only in `EX_WAIT` and `RI_BLK`: elsewhere its level changes nothing of a step (R31, R199, R210,
R245). -/
def Obligations.CancelIsSampledAtTwoPoints : Prop :=
  ∀ (s t : State) (level : Bool), s.seq ≠ .exWait → s.seq ≠ .riBlk → EngineTurn s → step s = .next t →
    step { s with cancel := level } = .next { t with cancel := level }

-- The host port (10_state R10, 20_memory R41)

/-- What a host read of every readable register returns, field by field of the packed ones, the bits above each register's
width 0; a byte of `RXBUF` at or above `RXLEN` reads as some byte (R10, R15, R16, R18, R19, R21, R22, R23, R27). -/
def Obligations.PackedRegistersRead : Prop :=
  ∀ s : State,
    regRead 0 s = some 0#32 ∧
    (∃ v : Word32, regRead 1 s = some v ∧ v.getLsbD 0 = s.status.busy ∧ v.getLsbD 1 = s.status.done ∧
      v.getLsbD 2 = s.status.ok ∧ v.getLsbD 3 = s.status.fatal ∧ v.toNat < 16) ∧
    (∃ v : Word32, regRead 2 s = some v ∧ v.extractLsb' 0 8 = s.err.code ∧ v.extractLsb' 8 8 = s.err.cmdb ∧
      v.extractLsb' 16 7 = s.err.blk ∧ v.getLsbD 23 = false ∧ v.extractLsb' 24 3 = s.err.att ∧
      v.extractLsb' 27 5 = 0#5) ∧
    regRead 3 s = some s.esticky ∧
    (∃ v : Word32, regRead 4 s = some v ∧ v.toNat = s.argTicks.toNat) ∧
    (∃ v : Word32, regRead 5 s = some v ∧ v.toNat = s.argFlags.toNat) ∧
    regRead 6 s = some s.argRate ∧
    (∃ v : Word32, regRead 7 s = some v ∧ v.toNat = s.argLen.toNat) ∧
    (∃ v : Word32, regRead 8 s = some v ∧ v.toNat = s.rxlen.toNat) ∧
    (∃ v : Word32, regRead 9 s = some v ∧ v.toNat = s.resCks.toNat) ∧
    (∃ v : Word32, regRead 10 s = some v ∧ v.extractLsb' 0 8 = s.fwType ∧ v.extractLsb' 8 8 = s.fwMajor ∧
      v.extractLsb' 16 8 = s.fwMinor ∧ v.extractLsb' 24 8 = 0#8) ∧
    (∃ v : Word32, regRead 11 s = some v ∧ v.toNat = s.substCnt.toNat) ∧
    (∀ k : Nat, k < 96 → ∃ v : Word32, regRead (12 + k / 32) s = some v ∧ v.getLsbD (k % 32) = s.substMap.getLsbD k) ∧
    (∃ v : Word32, regRead 15 s = some v ∧ v.extractLsb' 0 3 = rateIndex s.baudCur ∧
      v.extractLsb' 4 3 = rateIndex s.baudPrev ∧ v.getLsbD 3 = false ∧ v.extractLsb' 7 25 = 0#25) ∧
    regRead 16 s = some s.cfgReadyMax ∧
    regRead 17 s = some s.polls ∧
    (∀ k : Nat, k < 16 → ∃ v : Word32, regRead (32 + k) s = some v ∧ v.toNat = (s.txbuf.getD k 0#8).toNat) ∧
    (∀ k : Nat, k < 16 → ∃ v : Word32, regRead (64 + k) s = some v ∧ v.toNat < 256 ∧
      (k < s.rxlen.toNat → v.toNat = (s.rxbuf.getD k 0#8).toNat))

/-- The operand registers take the low bits of a host write at any time, busy or not, and count as written from then on
(R35); a write to a read-only register changes nothing; a read returns the register's value (PackedRegistersRead) and changes
nothing; the host sets the `cancel` level at any time, and with it nothing else (R10, R16, R27, R31; log 23 for the low bits;
log 21 for the list of returned values). -/
def Obligations.HostWritesAndReadsRegisters : Prop :=
  ∀ (s : State) (no : Nat) (v : Word32) (rest : List HostAct),
    (s.host = .writeReg no v :: rest →
      (no = 4 → step s = .next
        { s with host := rest, argTicks := v.setWidth 24, wrote := { s.wrote with ticks := true } }) ∧
      (no = 5 → step s = .next
        { s with host := rest, argFlags := v.setWidth 3, wrote := { s.wrote with flags := true } }) ∧
      (no = 6 → step s = .next { s with host := rest, argRate := v, wrote := { s.wrote with rate := true } }) ∧
      (no = 7 → step s = .next
        { s with host := rest, argLen := v.setWidth 16, wrote := { s.wrote with len := true } }) ∧
      (no = 16 → step s = .next { s with host := rest, cfgReadyMax := v }) ∧
      (no ∈ [1, 2, 3, 8, 9, 10, 11, 12, 13, 14, 15, 17] ∨ 64 ≤ no ∧ no < 80 → step s = .next { s with host := rest }) ∧
      (32 ≤ no → no < 48 → s.status.busy = false → ∃ w : BitVec 16,
        (∀ k : Nat, k < 16 → w.getLsbD k = (decide (k = no - 32) || s.wrote.txbuf.getLsbD k)) ∧
        step s = .next { s with
          host := rest
          txbuf := s.txbuf.set (no - 32) (v.setWidth 8)
          wrote := { s.wrote with txbuf := w } })) ∧
    (s.host = .readReg no :: rest → ∀ w : Word32, regRead no s = some w →
      step s = .next { s with host := rest, readback := s.readback ++ [w] }) ∧
    (∀ level : Bool, s.host = .setCancel level :: rest → step s = .next { s with host := rest, cancel := level })

/-- While not busy, a host read of `RAW` or `IMG` returns what the place holds, whoever wrote it, and changes nothing; a write
changes that one place, which a read then returns; a written byte of `RAW` counts as written from then on (R41, R35; log 21
for the list of returned values). -/
def Obligations.MemoryPortReadsWhatWasWritten : Prop :=
  ∀ (s : State) (a : Nat) (rest : List HostAct), s.status.busy = false →
    (a < 614400 → s.host = .readRaw a :: rest →
      step s = .next { s with host := rest, readback := s.readback ++ [(rawByte a s).setWidth 32] }) ∧
    (a < 307200 → s.host = .readImg a :: rest →
      step s = .next { s with host := rest, readback := s.readback ++ [(imgWord a s).setWidth 32] }) ∧
    (∀ v : Byte, a < 614400 → s.host = .writeRaw a v :: .readRaw a :: rest → ∃ t : State,
      steps 2 s = .next t ∧ t.readback = s.readback ++ [v.setWidth 32] ∧
      (∀ b : Nat, rawByte b t = if b = a then v else rawByte b s) ∧
      (∀ b : Nat, Ranges.has t.rawUnwritten b = (Ranges.has s.rawUnwritten b && b != a)) ∧
      t = { s with host := rest, raw := t.raw, rawUnwritten := t.rawUnwritten, readback := t.readback }) ∧
    (∀ v : Word16, a < 307200 → s.host = .writeImg a v :: .readImg a :: rest → ∃ t : State,
      steps 2 s = .next t ∧ t.readback = s.readback ++ [v.setWidth 32] ∧
      (∀ b : Nat, imgWord b t = if b = a then v else imgWord b s) ∧
      t = { s with host := rest, img := t.img, readback := t.readback })

/-- A host access to `RAW` or `IMG` while busy and a host write of `TXBUF` while busy are refused, as R41 and R242 have
the model do; an address or register number that does not exist is a fault (R10, R28, R29; logs 21, 22). -/
def Obligations.ForbiddenHostAccessesStop : Prop :=
  ∀ (s : State) (rest : List HostAct) (a : Nat),
    (s.status.busy = true →
      (∀ v, s.host = .writeRaw a v :: rest → step s = .refused .memoryWhileBusy) ∧
      (s.host = .readRaw a :: rest → step s = .refused .memoryWhileBusy) ∧
      (∀ v, s.host = .writeImg a v :: rest → step s = .refused .memoryWhileBusy) ∧
      (s.host = .readImg a :: rest → step s = .refused .memoryWhileBusy) ∧
      (∀ v, 32 ≤ a → a < 48 → s.host = .writeReg a v :: rest → step s = .refused .txBufWhileBusy)) ∧
    (s.status.busy = false →
      (∀ v, 614400 ≤ a → s.host = .writeRaw a v :: rest → step s = .fault (.noRawByte a)) ∧
      (614400 ≤ a → s.host = .readRaw a :: rest → step s = .fault (.noRawByte a)) ∧
      (∀ v, 307200 ≤ a → s.host = .writeImg a v :: rest → step s = .fault (.noImgWord a)) ∧
      (307200 ≤ a → s.host = .readImg a :: rest → step s = .fault (.noImgWord a))) ∧
    (18 ≤ a ∧ a < 32 ∨ 48 ≤ a ∧ a < 64 ∨ 80 ≤ a →
      (s.host = .readReg a :: rest → step s = .fault (.noRegister a)) ∧
      (∀ v, s.host = .writeReg a v :: rest → step s = .fault (.noRegister a)))
end

