-- ==== Sys2Proof/Laws/Memory.lean ====
section
/-! SUPPORT. What each operation on a memory does to what is defined at an address, and that each keeps the canonical
form. -/

namespace Sys2Proof.Machine

variable {w : Nat}

-- The canonical form

/-- The canonical form, as a relation of all pairs. -/
theorem Memory.wf_iff (m : Memory w) : Memory.wf m = true ↔ m.Pairwise (fun c d => c.1 < d.1) := by
  induction m with
  | nil => simp [Memory.wf]
  | cons c m ih =>
    cases m with
    | nil => simp [Memory.wf]
    | cons d m =>
      rw [Memory.wf, Bool.and_eq_true, ih, List.pairwise_cons (a := c)]
      simp only [decide_eq_true_eq, List.mem_cons, forall_eq_or_imp, and_congr_left_iff]
      intro hp
      exact ⟨fun h => ⟨h, fun e he => lt_trans h ((List.pairwise_cons.mp hp).1 e he)⟩, And.left⟩

theorem Memory.mem_cellsFrom {vs : List (BitVec w)} {a : Nat} {c : Nat × BitVec w}
    (h : c ∈ Memory.cellsFrom a vs) : a ≤ c.1 ∧ c.1 < a + vs.length := by
  induction vs generalizing a with
  | nil => simp [Memory.cellsFrom] at h
  | cons v vs ih =>
    rw [Memory.cellsFrom, List.mem_cons] at h
    rcases h with rfl | h
    · simp
    · have := ih h
      simp only [List.length_cons]
      omega

theorem Memory.cellsFrom_pairwise (vs : List (BitVec w)) (a : Nat) :
    (Memory.cellsFrom a vs).Pairwise (fun c d => c.1 < d.1) := by
  induction vs generalizing a with
  | nil => simp [Memory.cellsFrom]
  | cons v vs ih =>
    rw [Memory.cellsFrom, List.pairwise_cons]
    exact ⟨fun c hc => by have := Memory.mem_cellsFrom hc; simp only; omega, ih (a + 1)⟩

/-- `put` keeps the canonical form. -/
theorem Memory.put_wf {m : Memory w} (h : Memory.wf m = true) (a : Nat) (vs : List (BitVec w)) :
    Memory.wf (Memory.put m a vs) = true := by
  rw [Memory.wf_iff] at h ⊢
  simp only [Memory.put, List.pairwise_append, List.mem_append, List.mem_filter, decide_eq_true_eq]
  refine ⟨⟨h.filter _, Memory.cellsFrom_pairwise vs a, ?_⟩, h.filter _, ?_⟩
  · intro c hc d hd
    have := Memory.mem_cellsFrom hd
    omega
  · rintro c (hc | hc) d hd
    · omega
    · have := Memory.mem_cellsFrom hc
      omega

/-- `put` inside a memory stays inside. -/
theorem Memory.put_within {size : Nat} {m : Memory w} (h : Memory.within size m = true) {a : Nat}
    {vs : List (BitVec w)} (hv : a + vs.length ≤ size) : Memory.within size (Memory.put m a vs) = true := by
  simp only [Memory.within, List.all_eq_true, decide_eq_true_eq, Memory.put, List.mem_append,
    List.mem_filter] at h ⊢
  rintro c ((hc | hc) | hc)
  · exact h c hc.1
  · have := Memory.mem_cellsFrom hc
    omega
  · exact h c hc.1

/-- A memory of one size is inside every larger one. -/
theorem Memory.within_mono {n k : Nat} {m : Memory w} (h : Memory.within n m = true) (hk : n ≤ k) :
    Memory.within k m = true := by
  simp only [Memory.within, List.all_eq_true, decide_eq_true_eq] at h ⊢
  exact fun c hc => lt_of_lt_of_le (h c hc) hk

-- What is defined at an address

@[simp] theorem Memory.lookup_nil (x : Nat) : Memory.lookup ([] : Memory w) x = none := rfl

theorem Memory.lookup_cons (c : Nat × BitVec w) (m : Memory w) (x : Nat) :
    Memory.lookup (c :: m) x = if c.1 = x then some c.2 else Memory.lookup m x := by
  by_cases h : c.1 = x <;> simp [Memory.lookup, h]

theorem Memory.lookup_append (m k : Memory w) (x : Nat) :
    Memory.lookup (m ++ k) x = (Memory.lookup m x).or (Memory.lookup k x) := by
  simp [Memory.lookup, List.find?_append, Option.map_or]

theorem Memory.lookup_filter (p : Nat → Bool) (m : Memory w) (x : Nat) :
    Memory.lookup (m.filter (fun c => p c.1)) x = if p x then Memory.lookup m x else none := by
  induction m with
  | nil => simp
  | cons c m ih =>
    by_cases hc : p c.1
    · rw [List.filter_cons, if_pos hc, Memory.lookup_cons, Memory.lookup_cons, ih]
      by_cases hx : c.1 = x
      · simp [← hx, hc]
      · simp [hx]
    · rw [List.filter_cons, if_neg hc, Memory.lookup_cons, ih]
      by_cases hx : c.1 = x
      · simp [← hx, hc]
      · simp [hx]

theorem Memory.lookup_cellsFrom (vs : List (BitVec w)) (a x : Nat) :
    Memory.lookup (Memory.cellsFrom a vs) x = if a ≤ x then vs[x - a]? else none := by
  induction vs generalizing a with
  | nil => simp [Memory.cellsFrom]
  | cons v vs ih =>
    rw [Memory.cellsFrom, Memory.lookup_cons, ih]
    by_cases hx : a = x
    · subst hx; simp
    · by_cases hl : a ≤ x
      · rw [if_neg hx, if_pos (by omega), if_pos hl, show x - a = (x - (a + 1)) + 1 by omega,
          List.getElem?_cons_succ]
      · rw [if_neg hx, if_neg (by omega), if_neg hl]

/-- A read after a write: inside the units written, the unit written there; outside, what was there. -/
theorem Memory.lookup_put (m : Memory w) (a : Nat) (vs : List (BitVec w)) (x : Nat) :
    Memory.lookup (Memory.put m a vs) x =
      if a ≤ x ∧ x < a + vs.length then vs[x - a]? else Memory.lookup m x := by
  simp only [Memory.put]
  rw [Memory.lookup_append, Memory.lookup_append, Memory.lookup_cellsFrom,
    Memory.lookup_filter (fun y => decide (y < a)), Memory.lookup_filter (fun y => decide (a + vs.length ≤ y))]
  by_cases h1 : a ≤ x
  · by_cases h2 : x < a + vs.length
    · have : x - a < vs.length := by omega
      simp [h1, h2, show ¬ x < a by omega, List.getElem?_eq_getElem this]
    · have : vs.length ≤ x - a := by omega
      simp [h1, show ¬ x < a by omega, show a + vs.length ≤ x by omega, this]
  · simp [h1, show x < a by omega, show ¬ a + vs.length ≤ x by omega]

-- Reading a range

theorem Memory.lookup_eq_none_of_lt {m : Memory w} {x : Nat} (h : ∀ c ∈ m, x < c.1) : Memory.lookup m x = none := by
  simp only [Memory.lookup, Option.map_eq_none_iff, List.find?_eq_none, beq_iff_eq]
  intro c hc he
  have := h c hc
  omega

theorem Memory.scan_eq (free : Nat → BitVec w) (n : Nat) : ∀ (a : Nat) (m : Memory w),
    m.Pairwise (fun c d => c.1 < d.1) → (∀ c ∈ m, a ≤ c.1) →
    Memory.scan free n a m = (List.range n).map (fun i => (Memory.lookup m (a + i)).getD (free (a + i))) := by
  induction n with
  | zero => intro a m _ _; simp [Memory.scan]
  | succ n ih =>
    intro a m hp hm
    rw [List.range_succ_eq_map, List.map_cons, List.map_map]
    cases m with
    | nil =>
      rw [Memory.scan, ih _ _ hp (by simp)]
      refine congrArg₂ List.cons (by simp) (List.map_congr_left (fun i _ => ?_))
      simp [show a + (i + 1) = a + 1 + i by omega]
    | cons c m =>
      have hc := List.pairwise_cons.mp hp
      rw [Memory.scan]
      by_cases h : c.1 = a
      · rw [if_pos h, ih _ _ hc.2 (fun d hd => by have := hc.1 d hd; omega)]
        refine congrArg₂ List.cons (by simp [Memory.lookup_cons, h]) (List.map_congr_left (fun i _ => ?_))
        simp [Memory.lookup_cons, show c.1 ≠ a + 1 + i by omega, show a + (i + 1) = a + 1 + i by omega]
      · have hlt : ∀ d ∈ c :: m, a + 1 ≤ d.1 := by
          intro d hd
          have h0 := hm c (by simp)
          rcases List.mem_cons.mp hd with rfl | hd
          · omega
          · have := hc.1 d hd
            omega
        rw [if_neg h, ih _ _ hp hlt]
        refine congrArg₂ List.cons ?_ (List.map_congr_left (fun i _ => ?_))
        · rw [Nat.add_zero, Memory.lookup_eq_none_of_lt (fun d hd => by have := hlt d hd; omega), Option.getD_none]
        · simp [show a + (i + 1) = a + 1 + i by omega]

/-- A range read is the read of each address. -/
theorem Memory.read_eq (free : Nat → BitVec w) {m : Memory w} (h : Memory.wf m = true) (a n : Nat) :
    Memory.read free m a n = (List.range n).map (fun i => (Memory.lookup m (a + i)).getD (free (a + i))) := by
  rw [Memory.wf_iff] at h
  rw [Memory.read, Memory.scan_eq free n a _ (h.filter _) (by simp)]
  refine List.map_congr_left (fun i _ => ?_)
  rw [Memory.lookup_filter (fun y => decide (a ≤ y))]
  simp

/-- A range read gives as many units as it asks for, whatever the memory. -/
@[simp] theorem Memory.read_length (free : Nat → BitVec w) (m : Memory w) (a n : Nat) :
    (Memory.read free m a n).length = n := by
  have : ∀ (n a : Nat) (m : Memory w), (Memory.scan free n a m).length = n := by
    intro n
    induction n with
    | zero => intro a m; simp [Memory.scan]
    | succ n ih =>
      intro a m
      cases m with
      | nil => simp [Memory.scan, ih]
      | cons c m => rw [Memory.scan]; split <;> simp [ih]
  exact this _ _ _

-- Sets of addresses

theorem Ranges.has_iff (g : Ranges) (a : Nat) : Ranges.has g a = true ↔ ∃ x ∈ g, x.1 ≤ a ∧ a < x.2 := by
  simp [Ranges.has]

/-- No address below `n` is in the set: in words of the addresses. -/
theorem Ranges.noneBelow_iff (g : Ranges) (n : Nat) :
    Ranges.noneBelow g n = true ↔ ∀ a < n, Ranges.has g a = false := by
  simp only [Ranges.noneBelow, List.all_eq_true, Bool.or_eq_true, decide_eq_true_eq, Ranges.has, List.any_eq_false,
    Bool.and_eq_true, not_and, not_lt]
  constructor
  · intro h a ha x hx hxa
    have := h x hx
    omega
  · intro h x hx
    by_cases hn : n ≤ x.1
    · exact .inl hn
    · exact .inr (h x.1 (by omega) x hx le_rfl)

/-- What is left after a removal: the addresses outside the range removed. -/
theorem Ranges.has_remove (g : Ranges) (a n b : Nat) :
    Ranges.has (Ranges.remove g a n) b = (Ranges.has g b && !(decide (a ≤ b) && decide (b < a + n))) := by
  rw [Bool.eq_iff_iff, Bool.and_eq_true, Ranges.has_iff, Ranges.has_iff]
  simp only [Ranges.remove, List.mem_flatMap, List.mem_filter, decide_eq_true_eq, Bool.not_eq_true',
    Bool.and_eq_false_iff, decide_eq_false_iff_not]
  constructor
  · rintro ⟨y, ⟨x, hx, hy, hlt⟩, h1, h2⟩
    simp only [List.mem_cons, List.not_mem_nil, or_false] at hy
    rcases hy with rfl | rfl
    · exact ⟨⟨x, hx, by simp only at h1 h2; omega⟩, by simp only at h1 h2; omega⟩
    · exact ⟨⟨x, hx, by simp only at h1 h2; omega⟩, by simp only at h1 h2; omega⟩
  · rintro ⟨⟨x, hx, h1, h2⟩, h3⟩
    by_cases hb : b < a
    · exact ⟨(x.1, min x.2 a), ⟨x, hx, by simp, by simp only; omega⟩, by simp only; omega⟩
    · exact ⟨(max x.1 (a + n), x.2), ⟨x, hx, by simp, by simp only; omega⟩, by simp only; omega⟩

/-- The canonical form, as a relation of all pairs. -/
theorem Ranges.wf_iff (g : Ranges) :
    Ranges.wf g = true ↔ (∀ x ∈ g, x.1 < x.2) ∧ g.Pairwise (fun x y => x.2 < y.1) := by
  induction g with
  | nil => simp [Ranges.wf]
  | cons x g ih =>
    cases g with
    | nil => simp [Ranges.wf]
    | cons y g =>
      rw [Ranges.wf, Bool.and_eq_true, Bool.and_eq_true, ih, List.pairwise_cons (a := x)]
      simp only [decide_eq_true_eq, List.mem_cons, forall_eq_or_imp]
      constructor
      · rintro ⟨⟨hx, hxy⟩, ⟨hy, hg⟩, hp⟩
        exact ⟨⟨hx, hy, hg⟩, ⟨hxy, fun z hz => by have := (List.pairwise_cons.mp hp).1 z hz; omega⟩, hp⟩
      · rintro ⟨⟨hx, hy, hg⟩, ⟨hxy, -⟩, hp⟩
        exact ⟨⟨hx, hxy⟩, ⟨hy, hg⟩, hp⟩

/-- A removal keeps the canonical form. -/
theorem Ranges.remove_wf {g : Ranges} (h : Ranges.wf g = true) (a : Nat) {n : Nat} (hn : 0 < n) :
    Ranges.wf (Ranges.remove g a n) = true := by
  rw [Ranges.wf_iff] at h ⊢
  obtain ⟨-, hp⟩ := h
  refine ⟨fun y hy => ?_, ?_⟩
  · simp only [Ranges.remove, List.mem_flatMap, List.mem_filter, decide_eq_true_eq] at hy
    obtain ⟨_, _, _, h⟩ := hy
    exact h
  · rw [Ranges.remove, List.pairwise_flatMap]
    refine ⟨fun x _ => List.Pairwise.filter _ ?_, hp.imp (fun hxy y hy z hz => ?_)⟩
    · simp only [List.pairwise_cons, List.mem_cons, List.not_mem_nil, or_false, forall_eq, List.Pairwise.nil,
        and_true, IsEmpty.forall_iff, implies_true]
      omega
    · simp only [List.mem_filter, List.mem_cons, List.not_mem_nil, or_false, decide_eq_true_eq] at hy hz
      obtain ⟨rfl | rfl, hy⟩ := hy <;> obtain ⟨rfl | rfl, hz⟩ := hz <;> simp only at hy hz ⊢ <;> omega

/-- A removal adds no address: what holds of the ends of all ranges still holds. -/
theorem Ranges.remove_in {g : Ranges} {m : Nat} (h : ∀ x ∈ g, x.2 ≤ m) (a n : Nat) :
    ∀ x ∈ Ranges.remove g a n, x.2 ≤ m := by
  intro y hy
  simp only [Ranges.remove, List.mem_flatMap, List.mem_filter, List.mem_cons, List.not_mem_nil, or_false] at hy
  obtain ⟨x, hx, rfl | rfl, -⟩ := hy
  · exact le_trans (min_le_left _ _) (h x hx)
  · exact h x hx

end Sys2Proof.Machine
end

