-- ==== Sys2Proof/Laws/State.lean ====
section
/-! SUPPORT. What each named update of the state does to each field: one lemma per field per update, so that no proof
unfolds a record update. -/

namespace Sys2Proof.Machine

-- logError
@[simp] theorem logError_seq (e : ErrKind) (b : BitVec 7) (a : BitVec 3) (s : State) : (logError e b a s).seq = s.seq := rfl
@[simp] theorem logError_nblk (e : ErrKind) (b : BitVec 7) (a : BitVec 3) (s : State) : (logError e b a s).nblk = s.nblk := rfl
@[simp] theorem logError_blk (e : ErrKind) (b : BitVec 7) (a : BitVec 3) (s : State) : (logError e b a s).blk = s.blk := rfl
@[simp] theorem logError_att (e : ErrKind) (b : BitVec 7) (a : BitVec 3) (s : State) : (logError e b a s).att = s.att := rfl
@[simp] theorem logError_lastCmd (e : ErrKind) (b : BitVec 7) (a : BitVec 3) (s : State) : (logError e b a s).lastCmd = s.lastCmd := rfl
@[simp] theorem logError_status (e : ErrKind) (b : BitVec 7) (a : BitVec 3) (s : State) : (logError e b a s).status = s.status := rfl
@[simp] theorem logError_err (e : ErrKind) (b : BitVec 7) (a : BitVec 3) (s : State) : (logError e b a s).err = s.err := rfl
@[simp] theorem logError_esticky (e : ErrKind) (b : BitVec 7) (a : BitVec 3) (s : State) : (logError e b a s).esticky = stickySet e s.esticky := rfl
@[simp] theorem logError_argTicks (e : ErrKind) (b : BitVec 7) (a : BitVec 3) (s : State) : (logError e b a s).argTicks = s.argTicks := rfl
@[simp] theorem logError_argFlags (e : ErrKind) (b : BitVec 7) (a : BitVec 3) (s : State) : (logError e b a s).argFlags = s.argFlags := rfl
@[simp] theorem logError_argRate (e : ErrKind) (b : BitVec 7) (a : BitVec 3) (s : State) : (logError e b a s).argRate = s.argRate := rfl
@[simp] theorem logError_argLen (e : ErrKind) (b : BitVec 7) (a : BitVec 3) (s : State) : (logError e b a s).argLen = s.argLen := rfl
@[simp] theorem logError_rxlen (e : ErrKind) (b : BitVec 7) (a : BitVec 3) (s : State) : (logError e b a s).rxlen = s.rxlen := rfl
@[simp] theorem logError_resCks (e : ErrKind) (b : BitVec 7) (a : BitVec 3) (s : State) : (logError e b a s).resCks = s.resCks := rfl
@[simp] theorem logError_fwType (e : ErrKind) (b : BitVec 7) (a : BitVec 3) (s : State) : (logError e b a s).fwType = s.fwType := rfl
@[simp] theorem logError_fwMajor (e : ErrKind) (b : BitVec 7) (a : BitVec 3) (s : State) : (logError e b a s).fwMajor = s.fwMajor := rfl
@[simp] theorem logError_fwMinor (e : ErrKind) (b : BitVec 7) (a : BitVec 3) (s : State) : (logError e b a s).fwMinor = s.fwMinor := rfl
@[simp] theorem logError_substCnt (e : ErrKind) (b : BitVec 7) (a : BitVec 3) (s : State) : (logError e b a s).substCnt = s.substCnt := rfl
@[simp] theorem logError_substMap (e : ErrKind) (b : BitVec 7) (a : BitVec 3) (s : State) : (logError e b a s).substMap = s.substMap := rfl
@[simp] theorem logError_baudCur (e : ErrKind) (b : BitVec 7) (a : BitVec 3) (s : State) : (logError e b a s).baudCur = s.baudCur := rfl
@[simp] theorem logError_baudPrev (e : ErrKind) (b : BitVec 7) (a : BitVec 3) (s : State) : (logError e b a s).baudPrev = s.baudPrev := rfl
@[simp] theorem logError_cfgReadyMax (e : ErrKind) (b : BitVec 7) (a : BitVec 3) (s : State) : (logError e b a s).cfgReadyMax = s.cfgReadyMax := rfl
@[simp] theorem logError_polls (e : ErrKind) (b : BitVec 7) (a : BitVec 3) (s : State) : (logError e b a s).polls = s.polls := rfl
@[simp] theorem logError_txbuf (e : ErrKind) (b : BitVec 7) (a : BitVec 3) (s : State) : (logError e b a s).txbuf = s.txbuf := rfl
@[simp] theorem logError_rxbuf (e : ErrKind) (b : BitVec 7) (a : BitVec 3) (s : State) : (logError e b a s).rxbuf = s.rxbuf := rfl
@[simp] theorem logError_latch (e : ErrKind) (b : BitVec 7) (a : BitVec 3) (s : State) : (logError e b a s).latch = s.latch := rfl
@[simp] theorem logError_cksAcc (e : ErrKind) (b : BitVec 7) (a : BitVec 3) (s : State) : (logError e b a s).cksAcc = s.cksAcc := rfl
@[simp] theorem logError_cksEmpty (e : ErrKind) (b : BitVec 7) (a : BitVec 3) (s : State) : (logError e b a s).cksEmpty = s.cksEmpty := rfl
@[simp] theorem logError_lrcAcc (e : ErrKind) (b : BitVec 7) (a : BitVec 3) (s : State) : (logError e b a s).lrcAcc = s.lrcAcc := rfl
@[simp] theorem logError_raw (e : ErrKind) (b : BitVec 7) (a : BitVec 3) (s : State) : (logError e b a s).raw = s.raw := rfl
@[simp] theorem logError_img (e : ErrKind) (b : BitVec 7) (a : BitVec 3) (s : State) : (logError e b a s).img = s.img := rfl
@[simp] theorem logError_log (e : ErrKind) (b : BitVec 7) (a : BitVec 3) (s : State) : (logError e b a s).log = s.log ++ [⟨e.code, s.latch.op, s.lastCmd, b, a⟩] := rfl
@[simp] theorem logError_cancel (e : ErrKind) (b : BitVec 7) (a : BitVec 3) (s : State) : (logError e b a s).cancel = s.cancel := rfl
@[simp] theorem logError_lineRate (e : ErrKind) (b : BitVec 7) (a : BitVec 3) (s : State) : (logError e b a s).lineRate = s.lineRate := rfl
@[simp] theorem logError_answers (e : ErrKind) (b : BitVec 7) (a : BitVec 3) (s : State) : (logError e b a s).answers = s.answers := rfl
@[simp] theorem logError_draws (e : ErrKind) (b : BitVec 7) (a : BitVec 3) (s : State) : (logError e b a s).draws = s.draws := rfl
@[simp] theorem logError_traffic (e : ErrKind) (b : BitVec 7) (a : BitVec 3) (s : State) : (logError e b a s).traffic = s.traffic := rfl
@[simp] theorem logError_host (e : ErrKind) (b : BitVec 7) (a : BitVec 3) (s : State) : (logError e b a s).host = s.host := rfl
@[simp] theorem logError_readback (e : ErrKind) (b : BitVec 7) (a : BitVec 3) (s : State) : (logError e b a s).readback = s.readback := rfl
@[simp] theorem logError_wrote (e : ErrKind) (b : BitVec 7) (a : BitVec 3) (s : State) : (logError e b a s).wrote = s.wrote := rfl
@[simp] theorem logError_rawUnwritten (e : ErrKind) (b : BitVec 7) (a : BitVec 3) (s : State) : (logError e b a s).rawUnwritten = s.rawUnwritten := rfl
@[simp] theorem logError_memEpoch (e : ErrKind) (b : BitVec 7) (a : BitVec 3) (s : State) : (logError e b a s).memEpoch = s.memEpoch := rfl
@[simp] theorem logError_blkEpoch (e : ErrKind) (b : BitVec 7) (a : BitVec 3) (s : State) : (logError e b a s).blkEpoch = s.blkEpoch := rfl
@[simp] theorem logError_rxEpoch (e : ErrKind) (b : BitVec 7) (a : BitVec 3) (s : State) : (logError e b a s).rxEpoch = s.rxEpoch := rfl

-- raise
@[simp] theorem raise_seq (e : ErrKind) (b : BitVec 7) (a : BitVec 3) (s : State) : (raise e b a s).seq = if e = .transportFatal then .fatal else .idle := rfl
@[simp] theorem raise_nblk (e : ErrKind) (b : BitVec 7) (a : BitVec 3) (s : State) : (raise e b a s).nblk = s.nblk := rfl
@[simp] theorem raise_blk (e : ErrKind) (b : BitVec 7) (a : BitVec 3) (s : State) : (raise e b a s).blk = s.blk := rfl
@[simp] theorem raise_att (e : ErrKind) (b : BitVec 7) (a : BitVec 3) (s : State) : (raise e b a s).att = s.att := rfl
@[simp] theorem raise_lastCmd (e : ErrKind) (b : BitVec 7) (a : BitVec 3) (s : State) : (raise e b a s).lastCmd = s.lastCmd := rfl
@[simp] theorem raise_status (e : ErrKind) (b : BitVec 7) (a : BitVec 3) (s : State) : (raise e b a s).status = ⟨false, true, false, if e = .transportFatal then true else s.status.fatal⟩ := rfl
@[simp] theorem raise_err (e : ErrKind) (b : BitVec 7) (a : BitVec 3) (s : State) : (raise e b a s).err = ⟨e.code, s.lastCmd, b, a⟩ := rfl
@[simp] theorem raise_esticky (e : ErrKind) (b : BitVec 7) (a : BitVec 3) (s : State) : (raise e b a s).esticky = stickySet e s.esticky := rfl
@[simp] theorem raise_argTicks (e : ErrKind) (b : BitVec 7) (a : BitVec 3) (s : State) : (raise e b a s).argTicks = s.argTicks := rfl
@[simp] theorem raise_argFlags (e : ErrKind) (b : BitVec 7) (a : BitVec 3) (s : State) : (raise e b a s).argFlags = s.argFlags := rfl
@[simp] theorem raise_argRate (e : ErrKind) (b : BitVec 7) (a : BitVec 3) (s : State) : (raise e b a s).argRate = s.argRate := rfl
@[simp] theorem raise_argLen (e : ErrKind) (b : BitVec 7) (a : BitVec 3) (s : State) : (raise e b a s).argLen = s.argLen := rfl
@[simp] theorem raise_rxlen (e : ErrKind) (b : BitVec 7) (a : BitVec 3) (s : State) : (raise e b a s).rxlen = s.rxlen := rfl
@[simp] theorem raise_resCks (e : ErrKind) (b : BitVec 7) (a : BitVec 3) (s : State) : (raise e b a s).resCks = s.resCks := rfl
@[simp] theorem raise_fwType (e : ErrKind) (b : BitVec 7) (a : BitVec 3) (s : State) : (raise e b a s).fwType = s.fwType := rfl
@[simp] theorem raise_fwMajor (e : ErrKind) (b : BitVec 7) (a : BitVec 3) (s : State) : (raise e b a s).fwMajor = s.fwMajor := rfl
@[simp] theorem raise_fwMinor (e : ErrKind) (b : BitVec 7) (a : BitVec 3) (s : State) : (raise e b a s).fwMinor = s.fwMinor := rfl
@[simp] theorem raise_substCnt (e : ErrKind) (b : BitVec 7) (a : BitVec 3) (s : State) : (raise e b a s).substCnt = s.substCnt := rfl
@[simp] theorem raise_substMap (e : ErrKind) (b : BitVec 7) (a : BitVec 3) (s : State) : (raise e b a s).substMap = s.substMap := rfl
@[simp] theorem raise_baudCur (e : ErrKind) (b : BitVec 7) (a : BitVec 3) (s : State) : (raise e b a s).baudCur = s.baudCur := rfl
@[simp] theorem raise_baudPrev (e : ErrKind) (b : BitVec 7) (a : BitVec 3) (s : State) : (raise e b a s).baudPrev = s.baudPrev := rfl
@[simp] theorem raise_cfgReadyMax (e : ErrKind) (b : BitVec 7) (a : BitVec 3) (s : State) : (raise e b a s).cfgReadyMax = s.cfgReadyMax := rfl
@[simp] theorem raise_polls (e : ErrKind) (b : BitVec 7) (a : BitVec 3) (s : State) : (raise e b a s).polls = s.polls := rfl
@[simp] theorem raise_txbuf (e : ErrKind) (b : BitVec 7) (a : BitVec 3) (s : State) : (raise e b a s).txbuf = s.txbuf := rfl
@[simp] theorem raise_rxbuf (e : ErrKind) (b : BitVec 7) (a : BitVec 3) (s : State) : (raise e b a s).rxbuf = s.rxbuf := rfl
@[simp] theorem raise_latch (e : ErrKind) (b : BitVec 7) (a : BitVec 3) (s : State) : (raise e b a s).latch = s.latch := rfl
@[simp] theorem raise_cksAcc (e : ErrKind) (b : BitVec 7) (a : BitVec 3) (s : State) : (raise e b a s).cksAcc = s.cksAcc := rfl
@[simp] theorem raise_cksEmpty (e : ErrKind) (b : BitVec 7) (a : BitVec 3) (s : State) : (raise e b a s).cksEmpty = s.cksEmpty := rfl
@[simp] theorem raise_lrcAcc (e : ErrKind) (b : BitVec 7) (a : BitVec 3) (s : State) : (raise e b a s).lrcAcc = s.lrcAcc := rfl
@[simp] theorem raise_raw (e : ErrKind) (b : BitVec 7) (a : BitVec 3) (s : State) : (raise e b a s).raw = s.raw := rfl
@[simp] theorem raise_img (e : ErrKind) (b : BitVec 7) (a : BitVec 3) (s : State) : (raise e b a s).img = s.img := rfl
@[simp] theorem raise_log (e : ErrKind) (b : BitVec 7) (a : BitVec 3) (s : State) : (raise e b a s).log = s.log ++ [⟨e.code, s.latch.op, s.lastCmd, b, a⟩] := rfl
@[simp] theorem raise_cancel (e : ErrKind) (b : BitVec 7) (a : BitVec 3) (s : State) : (raise e b a s).cancel = s.cancel := rfl
@[simp] theorem raise_lineRate (e : ErrKind) (b : BitVec 7) (a : BitVec 3) (s : State) : (raise e b a s).lineRate = s.lineRate := rfl
@[simp] theorem raise_answers (e : ErrKind) (b : BitVec 7) (a : BitVec 3) (s : State) : (raise e b a s).answers = s.answers := rfl
@[simp] theorem raise_draws (e : ErrKind) (b : BitVec 7) (a : BitVec 3) (s : State) : (raise e b a s).draws = s.draws := rfl
@[simp] theorem raise_traffic (e : ErrKind) (b : BitVec 7) (a : BitVec 3) (s : State) : (raise e b a s).traffic = s.traffic := rfl
@[simp] theorem raise_host (e : ErrKind) (b : BitVec 7) (a : BitVec 3) (s : State) : (raise e b a s).host = s.host := rfl
@[simp] theorem raise_readback (e : ErrKind) (b : BitVec 7) (a : BitVec 3) (s : State) : (raise e b a s).readback = s.readback := rfl
@[simp] theorem raise_wrote (e : ErrKind) (b : BitVec 7) (a : BitVec 3) (s : State) : (raise e b a s).wrote = s.wrote := rfl
@[simp] theorem raise_rawUnwritten (e : ErrKind) (b : BitVec 7) (a : BitVec 3) (s : State) : (raise e b a s).rawUnwritten = s.rawUnwritten := rfl
@[simp] theorem raise_memEpoch (e : ErrKind) (b : BitVec 7) (a : BitVec 3) (s : State) : (raise e b a s).memEpoch = s.memEpoch := rfl
@[simp] theorem raise_blkEpoch (e : ErrKind) (b : BitVec 7) (a : BitVec 3) (s : State) : (raise e b a s).blkEpoch = s.blkEpoch := rfl
@[simp] theorem raise_rxEpoch (e : ErrKind) (b : BitVec 7) (a : BitVec 3) (s : State) : (raise e b a s).rxEpoch = s.rxEpoch := rfl

-- complete
@[simp] theorem complete_seq (ok : Bool) (s : State) : (complete ok s).seq = .idle := rfl
@[simp] theorem complete_nblk (ok : Bool) (s : State) : (complete ok s).nblk = s.nblk := rfl
@[simp] theorem complete_blk (ok : Bool) (s : State) : (complete ok s).blk = s.blk := rfl
@[simp] theorem complete_att (ok : Bool) (s : State) : (complete ok s).att = s.att := rfl
@[simp] theorem complete_lastCmd (ok : Bool) (s : State) : (complete ok s).lastCmd = s.lastCmd := rfl
@[simp] theorem complete_status (ok : Bool) (s : State) : (complete ok s).status = ⟨false, true, ok, s.status.fatal⟩ := rfl
@[simp] theorem complete_err (ok : Bool) (s : State) : (complete ok s).err = s.err := rfl
@[simp] theorem complete_esticky (ok : Bool) (s : State) : (complete ok s).esticky = s.esticky := rfl
@[simp] theorem complete_argTicks (ok : Bool) (s : State) : (complete ok s).argTicks = s.argTicks := rfl
@[simp] theorem complete_argFlags (ok : Bool) (s : State) : (complete ok s).argFlags = s.argFlags := rfl
@[simp] theorem complete_argRate (ok : Bool) (s : State) : (complete ok s).argRate = s.argRate := rfl
@[simp] theorem complete_argLen (ok : Bool) (s : State) : (complete ok s).argLen = s.argLen := rfl
@[simp] theorem complete_rxlen (ok : Bool) (s : State) : (complete ok s).rxlen = s.rxlen := rfl
@[simp] theorem complete_resCks (ok : Bool) (s : State) : (complete ok s).resCks = s.resCks := rfl
@[simp] theorem complete_fwType (ok : Bool) (s : State) : (complete ok s).fwType = s.fwType := rfl
@[simp] theorem complete_fwMajor (ok : Bool) (s : State) : (complete ok s).fwMajor = s.fwMajor := rfl
@[simp] theorem complete_fwMinor (ok : Bool) (s : State) : (complete ok s).fwMinor = s.fwMinor := rfl
@[simp] theorem complete_substCnt (ok : Bool) (s : State) : (complete ok s).substCnt = s.substCnt := rfl
@[simp] theorem complete_substMap (ok : Bool) (s : State) : (complete ok s).substMap = s.substMap := rfl
@[simp] theorem complete_baudCur (ok : Bool) (s : State) : (complete ok s).baudCur = s.baudCur := rfl
@[simp] theorem complete_baudPrev (ok : Bool) (s : State) : (complete ok s).baudPrev = s.baudPrev := rfl
@[simp] theorem complete_cfgReadyMax (ok : Bool) (s : State) : (complete ok s).cfgReadyMax = s.cfgReadyMax := rfl
@[simp] theorem complete_polls (ok : Bool) (s : State) : (complete ok s).polls = s.polls := rfl
@[simp] theorem complete_txbuf (ok : Bool) (s : State) : (complete ok s).txbuf = s.txbuf := rfl
@[simp] theorem complete_rxbuf (ok : Bool) (s : State) : (complete ok s).rxbuf = s.rxbuf := rfl
@[simp] theorem complete_latch (ok : Bool) (s : State) : (complete ok s).latch = s.latch := rfl
@[simp] theorem complete_cksAcc (ok : Bool) (s : State) : (complete ok s).cksAcc = s.cksAcc := rfl
@[simp] theorem complete_cksEmpty (ok : Bool) (s : State) : (complete ok s).cksEmpty = s.cksEmpty := rfl
@[simp] theorem complete_lrcAcc (ok : Bool) (s : State) : (complete ok s).lrcAcc = s.lrcAcc := rfl
@[simp] theorem complete_raw (ok : Bool) (s : State) : (complete ok s).raw = s.raw := rfl
@[simp] theorem complete_img (ok : Bool) (s : State) : (complete ok s).img = s.img := rfl
@[simp] theorem complete_log (ok : Bool) (s : State) : (complete ok s).log = s.log := rfl
@[simp] theorem complete_cancel (ok : Bool) (s : State) : (complete ok s).cancel = s.cancel := rfl
@[simp] theorem complete_lineRate (ok : Bool) (s : State) : (complete ok s).lineRate = s.lineRate := rfl
@[simp] theorem complete_answers (ok : Bool) (s : State) : (complete ok s).answers = s.answers := rfl
@[simp] theorem complete_draws (ok : Bool) (s : State) : (complete ok s).draws = s.draws := rfl
@[simp] theorem complete_traffic (ok : Bool) (s : State) : (complete ok s).traffic = s.traffic := rfl
@[simp] theorem complete_host (ok : Bool) (s : State) : (complete ok s).host = s.host := rfl
@[simp] theorem complete_readback (ok : Bool) (s : State) : (complete ok s).readback = s.readback := rfl
@[simp] theorem complete_wrote (ok : Bool) (s : State) : (complete ok s).wrote = s.wrote := rfl
@[simp] theorem complete_rawUnwritten (ok : Bool) (s : State) : (complete ok s).rawUnwritten = s.rawUnwritten := rfl
@[simp] theorem complete_memEpoch (ok : Bool) (s : State) : (complete ok s).memEpoch = s.memEpoch := rfl
@[simp] theorem complete_blkEpoch (ok : Bool) (s : State) : (complete ok s).blkEpoch = s.blkEpoch := rfl
@[simp] theorem complete_rxEpoch (ok : Bool) (s : State) : (complete ok s).rxEpoch = s.rxEpoch := rfl

-- start
@[simp] theorem start_seq (op : Byte) (q : Seq) (s : State) : (start op q s).seq = q := rfl
@[simp] theorem start_nblk (op : Byte) (q : Seq) (s : State) : (start op q s).nblk = s.nblk := rfl
@[simp] theorem start_blk (op : Byte) (q : Seq) (s : State) : (start op q s).blk = s.blk := rfl
@[simp] theorem start_att (op : Byte) (q : Seq) (s : State) : (start op q s).att = s.att := rfl
@[simp] theorem start_lastCmd (op : Byte) (q : Seq) (s : State) : (start op q s).lastCmd = 0#8 := rfl
@[simp] theorem start_status (op : Byte) (q : Seq) (s : State) : (start op q s).status = ⟨true, false, false, s.status.fatal⟩ := rfl
@[simp] theorem start_err (op : Byte) (q : Seq) (s : State) : (start op q s).err = ErrReg.none := rfl
@[simp] theorem start_esticky (op : Byte) (q : Seq) (s : State) : (start op q s).esticky = s.esticky := rfl
@[simp] theorem start_argTicks (op : Byte) (q : Seq) (s : State) : (start op q s).argTicks = s.argTicks := rfl
@[simp] theorem start_argFlags (op : Byte) (q : Seq) (s : State) : (start op q s).argFlags = s.argFlags := rfl
@[simp] theorem start_argRate (op : Byte) (q : Seq) (s : State) : (start op q s).argRate = s.argRate := rfl
@[simp] theorem start_argLen (op : Byte) (q : Seq) (s : State) : (start op q s).argLen = s.argLen := rfl
@[simp] theorem start_rxlen (op : Byte) (q : Seq) (s : State) : (start op q s).rxlen = 0#8 := rfl
@[simp] theorem start_resCks (op : Byte) (q : Seq) (s : State) : (start op q s).resCks = s.resCks := rfl
@[simp] theorem start_fwType (op : Byte) (q : Seq) (s : State) : (start op q s).fwType = s.fwType := rfl
@[simp] theorem start_fwMajor (op : Byte) (q : Seq) (s : State) : (start op q s).fwMajor = s.fwMajor := rfl
@[simp] theorem start_fwMinor (op : Byte) (q : Seq) (s : State) : (start op q s).fwMinor = s.fwMinor := rfl
@[simp] theorem start_substCnt (op : Byte) (q : Seq) (s : State) : (start op q s).substCnt = s.substCnt := rfl
@[simp] theorem start_substMap (op : Byte) (q : Seq) (s : State) : (start op q s).substMap = s.substMap := rfl
@[simp] theorem start_baudCur (op : Byte) (q : Seq) (s : State) : (start op q s).baudCur = s.baudCur := rfl
@[simp] theorem start_baudPrev (op : Byte) (q : Seq) (s : State) : (start op q s).baudPrev = s.baudPrev := rfl
@[simp] theorem start_cfgReadyMax (op : Byte) (q : Seq) (s : State) : (start op q s).cfgReadyMax = s.cfgReadyMax := rfl
@[simp] theorem start_polls (op : Byte) (q : Seq) (s : State) : (start op q s).polls = s.polls := rfl
@[simp] theorem start_txbuf (op : Byte) (q : Seq) (s : State) : (start op q s).txbuf = s.txbuf := rfl
@[simp] theorem start_rxbuf (op : Byte) (q : Seq) (s : State) : (start op q s).rxbuf = s.rxbuf := rfl
@[simp] theorem start_latch (op : Byte) (q : Seq) (s : State) : (start op q s).latch = latchOperands op s := rfl
@[simp] theorem start_cksAcc (op : Byte) (q : Seq) (s : State) : (start op q s).cksAcc = s.cksAcc := rfl
@[simp] theorem start_cksEmpty (op : Byte) (q : Seq) (s : State) : (start op q s).cksEmpty = s.cksEmpty := rfl
@[simp] theorem start_lrcAcc (op : Byte) (q : Seq) (s : State) : (start op q s).lrcAcc = s.lrcAcc := rfl
@[simp] theorem start_raw (op : Byte) (q : Seq) (s : State) : (start op q s).raw = s.raw := rfl
@[simp] theorem start_img (op : Byte) (q : Seq) (s : State) : (start op q s).img = s.img := rfl
@[simp] theorem start_log (op : Byte) (q : Seq) (s : State) : (start op q s).log = s.log := rfl
@[simp] theorem start_cancel (op : Byte) (q : Seq) (s : State) : (start op q s).cancel = s.cancel := rfl
@[simp] theorem start_lineRate (op : Byte) (q : Seq) (s : State) : (start op q s).lineRate = s.lineRate := rfl
@[simp] theorem start_answers (op : Byte) (q : Seq) (s : State) : (start op q s).answers = s.answers := rfl
@[simp] theorem start_draws (op : Byte) (q : Seq) (s : State) : (start op q s).draws = s.draws := rfl
@[simp] theorem start_traffic (op : Byte) (q : Seq) (s : State) : (start op q s).traffic = s.traffic := rfl
@[simp] theorem start_host (op : Byte) (q : Seq) (s : State) : (start op q s).host = s.host := rfl
@[simp] theorem start_readback (op : Byte) (q : Seq) (s : State) : (start op q s).readback = s.readback := rfl
@[simp] theorem start_wrote (op : Byte) (q : Seq) (s : State) : (start op q s).wrote = s.wrote := rfl
@[simp] theorem start_rawUnwritten (op : Byte) (q : Seq) (s : State) : (start op q s).rawUnwritten = s.rawUnwritten := rfl
@[simp] theorem start_memEpoch (op : Byte) (q : Seq) (s : State) : (start op q s).memEpoch = s.memEpoch := rfl
@[simp] theorem start_blkEpoch (op : Byte) (q : Seq) (s : State) : (start op q s).blkEpoch = s.blkEpoch := rfl
@[simp] theorem start_rxEpoch (op : Byte) (q : Seq) (s : State) : (start op q s).rxEpoch = s.rxEpoch := rfl

-- overrun
@[simp] theorem overrun_seq (s : State) : (overrun s).seq = s.seq := rfl
@[simp] theorem overrun_nblk (s : State) : (overrun s).nblk = s.nblk := rfl
@[simp] theorem overrun_blk (s : State) : (overrun s).blk = s.blk := rfl
@[simp] theorem overrun_att (s : State) : (overrun s).att = s.att := rfl
@[simp] theorem overrun_lastCmd (s : State) : (overrun s).lastCmd = s.lastCmd := rfl
@[simp] theorem overrun_status (s : State) : (overrun s).status = s.status := rfl
@[simp] theorem overrun_err (s : State) : (overrun s).err = s.err := rfl
@[simp] theorem overrun_esticky (s : State) : (overrun s).esticky = stickySet .overrun s.esticky := rfl
@[simp] theorem overrun_argTicks (s : State) : (overrun s).argTicks = s.argTicks := rfl
@[simp] theorem overrun_argFlags (s : State) : (overrun s).argFlags = s.argFlags := rfl
@[simp] theorem overrun_argRate (s : State) : (overrun s).argRate = s.argRate := rfl
@[simp] theorem overrun_argLen (s : State) : (overrun s).argLen = s.argLen := rfl
@[simp] theorem overrun_rxlen (s : State) : (overrun s).rxlen = s.rxlen := rfl
@[simp] theorem overrun_resCks (s : State) : (overrun s).resCks = s.resCks := rfl
@[simp] theorem overrun_fwType (s : State) : (overrun s).fwType = s.fwType := rfl
@[simp] theorem overrun_fwMajor (s : State) : (overrun s).fwMajor = s.fwMajor := rfl
@[simp] theorem overrun_fwMinor (s : State) : (overrun s).fwMinor = s.fwMinor := rfl
@[simp] theorem overrun_substCnt (s : State) : (overrun s).substCnt = s.substCnt := rfl
@[simp] theorem overrun_substMap (s : State) : (overrun s).substMap = s.substMap := rfl
@[simp] theorem overrun_baudCur (s : State) : (overrun s).baudCur = s.baudCur := rfl
@[simp] theorem overrun_baudPrev (s : State) : (overrun s).baudPrev = s.baudPrev := rfl
@[simp] theorem overrun_cfgReadyMax (s : State) : (overrun s).cfgReadyMax = s.cfgReadyMax := rfl
@[simp] theorem overrun_polls (s : State) : (overrun s).polls = s.polls := rfl
@[simp] theorem overrun_txbuf (s : State) : (overrun s).txbuf = s.txbuf := rfl
@[simp] theorem overrun_rxbuf (s : State) : (overrun s).rxbuf = s.rxbuf := rfl
@[simp] theorem overrun_latch (s : State) : (overrun s).latch = s.latch := rfl
@[simp] theorem overrun_cksAcc (s : State) : (overrun s).cksAcc = s.cksAcc := rfl
@[simp] theorem overrun_cksEmpty (s : State) : (overrun s).cksEmpty = s.cksEmpty := rfl
@[simp] theorem overrun_lrcAcc (s : State) : (overrun s).lrcAcc = s.lrcAcc := rfl
@[simp] theorem overrun_raw (s : State) : (overrun s).raw = s.raw := rfl
@[simp] theorem overrun_img (s : State) : (overrun s).img = s.img := rfl
@[simp] theorem overrun_log (s : State) : (overrun s).log = s.log := rfl
@[simp] theorem overrun_cancel (s : State) : (overrun s).cancel = s.cancel := rfl
@[simp] theorem overrun_lineRate (s : State) : (overrun s).lineRate = s.lineRate := rfl
@[simp] theorem overrun_answers (s : State) : (overrun s).answers = s.answers := rfl
@[simp] theorem overrun_draws (s : State) : (overrun s).draws = s.draws := rfl
@[simp] theorem overrun_traffic (s : State) : (overrun s).traffic = s.traffic := rfl
@[simp] theorem overrun_host (s : State) : (overrun s).host = s.host := rfl
@[simp] theorem overrun_readback (s : State) : (overrun s).readback = s.readback := rfl
@[simp] theorem overrun_wrote (s : State) : (overrun s).wrote = s.wrote := rfl
@[simp] theorem overrun_rawUnwritten (s : State) : (overrun s).rawUnwritten = s.rawUnwritten := rfl
@[simp] theorem overrun_memEpoch (s : State) : (overrun s).memEpoch = s.memEpoch := rfl
@[simp] theorem overrun_blkEpoch (s : State) : (overrun s).blkEpoch = s.blkEpoch := rfl
@[simp] theorem overrun_rxEpoch (s : State) : (overrun s).rxEpoch = s.rxEpoch := rfl

-- goto
@[simp] theorem goto_seq (q : Seq) (s : State) : (goto q s).seq = q := rfl
@[simp] theorem goto_nblk (q : Seq) (s : State) : (goto q s).nblk = s.nblk := rfl
@[simp] theorem goto_blk (q : Seq) (s : State) : (goto q s).blk = s.blk := rfl
@[simp] theorem goto_att (q : Seq) (s : State) : (goto q s).att = s.att := rfl
@[simp] theorem goto_lastCmd (q : Seq) (s : State) : (goto q s).lastCmd = s.lastCmd := rfl
@[simp] theorem goto_status (q : Seq) (s : State) : (goto q s).status = s.status := rfl
@[simp] theorem goto_err (q : Seq) (s : State) : (goto q s).err = s.err := rfl
@[simp] theorem goto_esticky (q : Seq) (s : State) : (goto q s).esticky = s.esticky := rfl
@[simp] theorem goto_argTicks (q : Seq) (s : State) : (goto q s).argTicks = s.argTicks := rfl
@[simp] theorem goto_argFlags (q : Seq) (s : State) : (goto q s).argFlags = s.argFlags := rfl
@[simp] theorem goto_argRate (q : Seq) (s : State) : (goto q s).argRate = s.argRate := rfl
@[simp] theorem goto_argLen (q : Seq) (s : State) : (goto q s).argLen = s.argLen := rfl
@[simp] theorem goto_rxlen (q : Seq) (s : State) : (goto q s).rxlen = s.rxlen := rfl
@[simp] theorem goto_resCks (q : Seq) (s : State) : (goto q s).resCks = s.resCks := rfl
@[simp] theorem goto_fwType (q : Seq) (s : State) : (goto q s).fwType = s.fwType := rfl
@[simp] theorem goto_fwMajor (q : Seq) (s : State) : (goto q s).fwMajor = s.fwMajor := rfl
@[simp] theorem goto_fwMinor (q : Seq) (s : State) : (goto q s).fwMinor = s.fwMinor := rfl
@[simp] theorem goto_substCnt (q : Seq) (s : State) : (goto q s).substCnt = s.substCnt := rfl
@[simp] theorem goto_substMap (q : Seq) (s : State) : (goto q s).substMap = s.substMap := rfl
@[simp] theorem goto_baudCur (q : Seq) (s : State) : (goto q s).baudCur = s.baudCur := rfl
@[simp] theorem goto_baudPrev (q : Seq) (s : State) : (goto q s).baudPrev = s.baudPrev := rfl
@[simp] theorem goto_cfgReadyMax (q : Seq) (s : State) : (goto q s).cfgReadyMax = s.cfgReadyMax := rfl
@[simp] theorem goto_polls (q : Seq) (s : State) : (goto q s).polls = s.polls := rfl
@[simp] theorem goto_txbuf (q : Seq) (s : State) : (goto q s).txbuf = s.txbuf := rfl
@[simp] theorem goto_rxbuf (q : Seq) (s : State) : (goto q s).rxbuf = s.rxbuf := rfl
@[simp] theorem goto_latch (q : Seq) (s : State) : (goto q s).latch = s.latch := rfl
@[simp] theorem goto_cksAcc (q : Seq) (s : State) : (goto q s).cksAcc = s.cksAcc := rfl
@[simp] theorem goto_cksEmpty (q : Seq) (s : State) : (goto q s).cksEmpty = s.cksEmpty := rfl
@[simp] theorem goto_lrcAcc (q : Seq) (s : State) : (goto q s).lrcAcc = s.lrcAcc := rfl
@[simp] theorem goto_raw (q : Seq) (s : State) : (goto q s).raw = s.raw := rfl
@[simp] theorem goto_img (q : Seq) (s : State) : (goto q s).img = s.img := rfl
@[simp] theorem goto_log (q : Seq) (s : State) : (goto q s).log = s.log := rfl
@[simp] theorem goto_cancel (q : Seq) (s : State) : (goto q s).cancel = s.cancel := rfl
@[simp] theorem goto_lineRate (q : Seq) (s : State) : (goto q s).lineRate = s.lineRate := rfl
@[simp] theorem goto_answers (q : Seq) (s : State) : (goto q s).answers = s.answers := rfl
@[simp] theorem goto_draws (q : Seq) (s : State) : (goto q s).draws = s.draws := rfl
@[simp] theorem goto_traffic (q : Seq) (s : State) : (goto q s).traffic = s.traffic := rfl
@[simp] theorem goto_host (q : Seq) (s : State) : (goto q s).host = s.host := rfl
@[simp] theorem goto_readback (q : Seq) (s : State) : (goto q s).readback = s.readback := rfl
@[simp] theorem goto_wrote (q : Seq) (s : State) : (goto q s).wrote = s.wrote := rfl
@[simp] theorem goto_rawUnwritten (q : Seq) (s : State) : (goto q s).rawUnwritten = s.rawUnwritten := rfl
@[simp] theorem goto_memEpoch (q : Seq) (s : State) : (goto q s).memEpoch = s.memEpoch := rfl
@[simp] theorem goto_blkEpoch (q : Seq) (s : State) : (goto q s).blkEpoch = s.blkEpoch := rfl
@[simp] theorem goto_rxEpoch (q : Seq) (s : State) : (goto q s).rxEpoch = s.rxEpoch := rfl

-- callDone
@[simp] theorem callDone_seq (c : LinkCall) (s : State) : (callDone c s).seq = s.seq := rfl
@[simp] theorem callDone_nblk (c : LinkCall) (s : State) : (callDone c s).nblk = s.nblk := rfl
@[simp] theorem callDone_blk (c : LinkCall) (s : State) : (callDone c s).blk = s.blk := rfl
@[simp] theorem callDone_att (c : LinkCall) (s : State) : (callDone c s).att = s.att := rfl
@[simp] theorem callDone_lastCmd (c : LinkCall) (s : State) : (callDone c s).lastCmd = s.lastCmd := rfl
@[simp] theorem callDone_status (c : LinkCall) (s : State) : (callDone c s).status = s.status := rfl
@[simp] theorem callDone_err (c : LinkCall) (s : State) : (callDone c s).err = s.err := rfl
@[simp] theorem callDone_esticky (c : LinkCall) (s : State) : (callDone c s).esticky = s.esticky := rfl
@[simp] theorem callDone_argTicks (c : LinkCall) (s : State) : (callDone c s).argTicks = s.argTicks := rfl
@[simp] theorem callDone_argFlags (c : LinkCall) (s : State) : (callDone c s).argFlags = s.argFlags := rfl
@[simp] theorem callDone_argRate (c : LinkCall) (s : State) : (callDone c s).argRate = s.argRate := rfl
@[simp] theorem callDone_argLen (c : LinkCall) (s : State) : (callDone c s).argLen = s.argLen := rfl
@[simp] theorem callDone_rxlen (c : LinkCall) (s : State) : (callDone c s).rxlen = s.rxlen := rfl
@[simp] theorem callDone_resCks (c : LinkCall) (s : State) : (callDone c s).resCks = s.resCks := rfl
@[simp] theorem callDone_fwType (c : LinkCall) (s : State) : (callDone c s).fwType = s.fwType := rfl
@[simp] theorem callDone_fwMajor (c : LinkCall) (s : State) : (callDone c s).fwMajor = s.fwMajor := rfl
@[simp] theorem callDone_fwMinor (c : LinkCall) (s : State) : (callDone c s).fwMinor = s.fwMinor := rfl
@[simp] theorem callDone_substCnt (c : LinkCall) (s : State) : (callDone c s).substCnt = s.substCnt := rfl
@[simp] theorem callDone_substMap (c : LinkCall) (s : State) : (callDone c s).substMap = s.substMap := rfl
@[simp] theorem callDone_baudCur (c : LinkCall) (s : State) : (callDone c s).baudCur = s.baudCur := rfl
@[simp] theorem callDone_baudPrev (c : LinkCall) (s : State) : (callDone c s).baudPrev = s.baudPrev := rfl
@[simp] theorem callDone_cfgReadyMax (c : LinkCall) (s : State) : (callDone c s).cfgReadyMax = s.cfgReadyMax := rfl
@[simp] theorem callDone_polls (c : LinkCall) (s : State) : (callDone c s).polls = s.polls := rfl
@[simp] theorem callDone_txbuf (c : LinkCall) (s : State) : (callDone c s).txbuf = s.txbuf := rfl
@[simp] theorem callDone_rxbuf (c : LinkCall) (s : State) : (callDone c s).rxbuf = s.rxbuf := rfl
@[simp] theorem callDone_latch (c : LinkCall) (s : State) : (callDone c s).latch = s.latch := rfl
@[simp] theorem callDone_cksAcc (c : LinkCall) (s : State) : (callDone c s).cksAcc = s.cksAcc := rfl
@[simp] theorem callDone_cksEmpty (c : LinkCall) (s : State) : (callDone c s).cksEmpty = s.cksEmpty := rfl
@[simp] theorem callDone_lrcAcc (c : LinkCall) (s : State) : (callDone c s).lrcAcc = s.lrcAcc := rfl
@[simp] theorem callDone_raw (c : LinkCall) (s : State) : (callDone c s).raw = s.raw := rfl
@[simp] theorem callDone_img (c : LinkCall) (s : State) : (callDone c s).img = s.img := rfl
@[simp] theorem callDone_log (c : LinkCall) (s : State) : (callDone c s).log = s.log := rfl
@[simp] theorem callDone_cancel (c : LinkCall) (s : State) : (callDone c s).cancel = s.cancel := rfl
@[simp] theorem callDone_lineRate (c : LinkCall) (s : State) : (callDone c s).lineRate = s.lineRate := rfl
@[simp] theorem callDone_answers (c : LinkCall) (s : State) : (callDone c s).answers = s.answers.tail := rfl
@[simp] theorem callDone_draws (c : LinkCall) (s : State) : (callDone c s).draws = if s.answers.isEmpty then s.draws + 1 else s.draws := rfl
@[simp] theorem callDone_traffic (c : LinkCall) (s : State) : (callDone c s).traffic = s.traffic ++ [c] := rfl
@[simp] theorem callDone_host (c : LinkCall) (s : State) : (callDone c s).host = s.host := rfl
@[simp] theorem callDone_readback (c : LinkCall) (s : State) : (callDone c s).readback = s.readback := rfl
@[simp] theorem callDone_wrote (c : LinkCall) (s : State) : (callDone c s).wrote = s.wrote := rfl
@[simp] theorem callDone_rawUnwritten (c : LinkCall) (s : State) : (callDone c s).rawUnwritten = s.rawUnwritten := rfl
@[simp] theorem callDone_memEpoch (c : LinkCall) (s : State) : (callDone c s).memEpoch = s.memEpoch := rfl
@[simp] theorem callDone_blkEpoch (c : LinkCall) (s : State) : (callDone c s).blkEpoch = s.blkEpoch := rfl
@[simp] theorem callDone_rxEpoch (c : LinkCall) (s : State) : (callDone c s).rxEpoch = s.rxEpoch := rfl

-- afterWrite
@[simp] theorem afterWrite_seq (f : List Byte) (s : State) : (afterWrite f s).seq = s.seq := rfl
@[simp] theorem afterWrite_nblk (f : List Byte) (s : State) : (afterWrite f s).nblk = s.nblk := rfl
@[simp] theorem afterWrite_blk (f : List Byte) (s : State) : (afterWrite f s).blk = s.blk := rfl
@[simp] theorem afterWrite_att (f : List Byte) (s : State) : (afterWrite f s).att = s.att := rfl
@[simp] theorem afterWrite_lastCmd (f : List Byte) (s : State) : (afterWrite f s).lastCmd = s.lastCmd := rfl
@[simp] theorem afterWrite_status (f : List Byte) (s : State) : (afterWrite f s).status = s.status := rfl
@[simp] theorem afterWrite_err (f : List Byte) (s : State) : (afterWrite f s).err = s.err := rfl
@[simp] theorem afterWrite_esticky (f : List Byte) (s : State) : (afterWrite f s).esticky = s.esticky := rfl
@[simp] theorem afterWrite_argTicks (f : List Byte) (s : State) : (afterWrite f s).argTicks = s.argTicks := rfl
@[simp] theorem afterWrite_argFlags (f : List Byte) (s : State) : (afterWrite f s).argFlags = s.argFlags := rfl
@[simp] theorem afterWrite_argRate (f : List Byte) (s : State) : (afterWrite f s).argRate = s.argRate := rfl
@[simp] theorem afterWrite_argLen (f : List Byte) (s : State) : (afterWrite f s).argLen = s.argLen := rfl
@[simp] theorem afterWrite_rxlen (f : List Byte) (s : State) : (afterWrite f s).rxlen = s.rxlen := rfl
@[simp] theorem afterWrite_resCks (f : List Byte) (s : State) : (afterWrite f s).resCks = s.resCks := rfl
@[simp] theorem afterWrite_fwType (f : List Byte) (s : State) : (afterWrite f s).fwType = s.fwType := rfl
@[simp] theorem afterWrite_fwMajor (f : List Byte) (s : State) : (afterWrite f s).fwMajor = s.fwMajor := rfl
@[simp] theorem afterWrite_fwMinor (f : List Byte) (s : State) : (afterWrite f s).fwMinor = s.fwMinor := rfl
@[simp] theorem afterWrite_substCnt (f : List Byte) (s : State) : (afterWrite f s).substCnt = s.substCnt := rfl
@[simp] theorem afterWrite_substMap (f : List Byte) (s : State) : (afterWrite f s).substMap = s.substMap := rfl
@[simp] theorem afterWrite_baudCur (f : List Byte) (s : State) : (afterWrite f s).baudCur = s.baudCur := rfl
@[simp] theorem afterWrite_baudPrev (f : List Byte) (s : State) : (afterWrite f s).baudPrev = s.baudPrev := rfl
@[simp] theorem afterWrite_cfgReadyMax (f : List Byte) (s : State) : (afterWrite f s).cfgReadyMax = s.cfgReadyMax := rfl
@[simp] theorem afterWrite_polls (f : List Byte) (s : State) : (afterWrite f s).polls = s.polls := rfl
@[simp] theorem afterWrite_txbuf (f : List Byte) (s : State) : (afterWrite f s).txbuf = s.txbuf := rfl
@[simp] theorem afterWrite_rxbuf (f : List Byte) (s : State) : (afterWrite f s).rxbuf = s.rxbuf := rfl
@[simp] theorem afterWrite_latch (f : List Byte) (s : State) : (afterWrite f s).latch = s.latch := rfl
@[simp] theorem afterWrite_cksAcc (f : List Byte) (s : State) : (afterWrite f s).cksAcc = s.cksAcc := rfl
@[simp] theorem afterWrite_cksEmpty (f : List Byte) (s : State) : (afterWrite f s).cksEmpty = s.cksEmpty := rfl
@[simp] theorem afterWrite_lrcAcc (f : List Byte) (s : State) : (afterWrite f s).lrcAcc = s.lrcAcc := rfl
@[simp] theorem afterWrite_raw (f : List Byte) (s : State) : (afterWrite f s).raw = s.raw := rfl
@[simp] theorem afterWrite_img (f : List Byte) (s : State) : (afterWrite f s).img = s.img := rfl
@[simp] theorem afterWrite_log (f : List Byte) (s : State) : (afterWrite f s).log = s.log := rfl
@[simp] theorem afterWrite_cancel (f : List Byte) (s : State) : (afterWrite f s).cancel = s.cancel := rfl
@[simp] theorem afterWrite_lineRate (f : List Byte) (s : State) : (afterWrite f s).lineRate = s.lineRate := rfl
@[simp] theorem afterWrite_answers (f : List Byte) (s : State) : (afterWrite f s).answers = s.answers.tail := rfl
@[simp] theorem afterWrite_draws (f : List Byte) (s : State) : (afterWrite f s).draws = if s.answers.isEmpty then s.draws + 1 else s.draws := rfl
@[simp] theorem afterWrite_traffic (f : List Byte) (s : State) : (afterWrite f s).traffic = s.traffic ++ [.write f (linkOk s)] := rfl
@[simp] theorem afterWrite_host (f : List Byte) (s : State) : (afterWrite f s).host = s.host := rfl
@[simp] theorem afterWrite_readback (f : List Byte) (s : State) : (afterWrite f s).readback = s.readback := rfl
@[simp] theorem afterWrite_wrote (f : List Byte) (s : State) : (afterWrite f s).wrote = s.wrote := rfl
@[simp] theorem afterWrite_rawUnwritten (f : List Byte) (s : State) : (afterWrite f s).rawUnwritten = s.rawUnwritten := rfl
@[simp] theorem afterWrite_memEpoch (f : List Byte) (s : State) : (afterWrite f s).memEpoch = s.memEpoch := rfl
@[simp] theorem afterWrite_blkEpoch (f : List Byte) (s : State) : (afterWrite f s).blkEpoch = s.blkEpoch := rfl
@[simp] theorem afterWrite_rxEpoch (f : List Byte) (s : State) : (afterWrite f s).rxEpoch = s.rxEpoch := rfl

-- afterRead
@[simp] theorem afterRead_seq (n : Nat) (s : State) : (afterRead n s).seq = s.seq := rfl
@[simp] theorem afterRead_nblk (n : Nat) (s : State) : (afterRead n s).nblk = s.nblk := rfl
@[simp] theorem afterRead_blk (n : Nat) (s : State) : (afterRead n s).blk = s.blk := rfl
@[simp] theorem afterRead_att (n : Nat) (s : State) : (afterRead n s).att = s.att := rfl
@[simp] theorem afterRead_lastCmd (n : Nat) (s : State) : (afterRead n s).lastCmd = s.lastCmd := rfl
@[simp] theorem afterRead_status (n : Nat) (s : State) : (afterRead n s).status = s.status := rfl
@[simp] theorem afterRead_err (n : Nat) (s : State) : (afterRead n s).err = s.err := rfl
@[simp] theorem afterRead_esticky (n : Nat) (s : State) : (afterRead n s).esticky = s.esticky := rfl
@[simp] theorem afterRead_argTicks (n : Nat) (s : State) : (afterRead n s).argTicks = s.argTicks := rfl
@[simp] theorem afterRead_argFlags (n : Nat) (s : State) : (afterRead n s).argFlags = s.argFlags := rfl
@[simp] theorem afterRead_argRate (n : Nat) (s : State) : (afterRead n s).argRate = s.argRate := rfl
@[simp] theorem afterRead_argLen (n : Nat) (s : State) : (afterRead n s).argLen = s.argLen := rfl
@[simp] theorem afterRead_rxlen (n : Nat) (s : State) : (afterRead n s).rxlen = s.rxlen := rfl
@[simp] theorem afterRead_resCks (n : Nat) (s : State) : (afterRead n s).resCks = s.resCks := rfl
@[simp] theorem afterRead_fwType (n : Nat) (s : State) : (afterRead n s).fwType = s.fwType := rfl
@[simp] theorem afterRead_fwMajor (n : Nat) (s : State) : (afterRead n s).fwMajor = s.fwMajor := rfl
@[simp] theorem afterRead_fwMinor (n : Nat) (s : State) : (afterRead n s).fwMinor = s.fwMinor := rfl
@[simp] theorem afterRead_substCnt (n : Nat) (s : State) : (afterRead n s).substCnt = s.substCnt := rfl
@[simp] theorem afterRead_substMap (n : Nat) (s : State) : (afterRead n s).substMap = s.substMap := rfl
@[simp] theorem afterRead_baudCur (n : Nat) (s : State) : (afterRead n s).baudCur = s.baudCur := rfl
@[simp] theorem afterRead_baudPrev (n : Nat) (s : State) : (afterRead n s).baudPrev = s.baudPrev := rfl
@[simp] theorem afterRead_cfgReadyMax (n : Nat) (s : State) : (afterRead n s).cfgReadyMax = s.cfgReadyMax := rfl
@[simp] theorem afterRead_polls (n : Nat) (s : State) : (afterRead n s).polls = s.polls := rfl
@[simp] theorem afterRead_txbuf (n : Nat) (s : State) : (afterRead n s).txbuf = s.txbuf := rfl
@[simp] theorem afterRead_rxbuf (n : Nat) (s : State) : (afterRead n s).rxbuf = s.rxbuf := rfl
@[simp] theorem afterRead_latch (n : Nat) (s : State) : (afterRead n s).latch = s.latch := rfl
@[simp] theorem afterRead_cksAcc (n : Nat) (s : State) : (afterRead n s).cksAcc = s.cksAcc := rfl
@[simp] theorem afterRead_cksEmpty (n : Nat) (s : State) : (afterRead n s).cksEmpty = s.cksEmpty := rfl
@[simp] theorem afterRead_lrcAcc (n : Nat) (s : State) : (afterRead n s).lrcAcc = s.lrcAcc := rfl
@[simp] theorem afterRead_raw (n : Nat) (s : State) : (afterRead n s).raw = s.raw := rfl
@[simp] theorem afterRead_img (n : Nat) (s : State) : (afterRead n s).img = s.img := rfl
@[simp] theorem afterRead_log (n : Nat) (s : State) : (afterRead n s).log = s.log := rfl
@[simp] theorem afterRead_cancel (n : Nat) (s : State) : (afterRead n s).cancel = s.cancel := rfl
@[simp] theorem afterRead_lineRate (n : Nat) (s : State) : (afterRead n s).lineRate = s.lineRate := rfl
@[simp] theorem afterRead_answers (n : Nat) (s : State) : (afterRead n s).answers = s.answers.tail := rfl
@[simp] theorem afterRead_draws (n : Nat) (s : State) : (afterRead n s).draws = if s.answers.isEmpty then s.draws + 1 else s.draws := rfl
@[simp] theorem afterRead_traffic (n : Nat) (s : State) : (afterRead n s).traffic = s.traffic ++ [.read n (readLink n s)] := rfl
@[simp] theorem afterRead_host (n : Nat) (s : State) : (afterRead n s).host = s.host := rfl
@[simp] theorem afterRead_readback (n : Nat) (s : State) : (afterRead n s).readback = s.readback := rfl
@[simp] theorem afterRead_wrote (n : Nat) (s : State) : (afterRead n s).wrote = s.wrote := rfl
@[simp] theorem afterRead_rawUnwritten (n : Nat) (s : State) : (afterRead n s).rawUnwritten = s.rawUnwritten := rfl
@[simp] theorem afterRead_memEpoch (n : Nat) (s : State) : (afterRead n s).memEpoch = s.memEpoch := rfl
@[simp] theorem afterRead_blkEpoch (n : Nat) (s : State) : (afterRead n s).blkEpoch = s.blkEpoch := rfl
@[simp] theorem afterRead_rxEpoch (n : Nat) (s : State) : (afterRead n s).rxEpoch = s.rxEpoch := rfl

-- afterSetBaud
@[simp] theorem afterSetBaud_seq (r : Rate) (s : State) : (afterSetBaud r s).seq = s.seq := rfl
@[simp] theorem afterSetBaud_nblk (r : Rate) (s : State) : (afterSetBaud r s).nblk = s.nblk := rfl
@[simp] theorem afterSetBaud_blk (r : Rate) (s : State) : (afterSetBaud r s).blk = s.blk := rfl
@[simp] theorem afterSetBaud_att (r : Rate) (s : State) : (afterSetBaud r s).att = s.att := rfl
@[simp] theorem afterSetBaud_lastCmd (r : Rate) (s : State) : (afterSetBaud r s).lastCmd = s.lastCmd := rfl
@[simp] theorem afterSetBaud_status (r : Rate) (s : State) : (afterSetBaud r s).status = s.status := rfl
@[simp] theorem afterSetBaud_err (r : Rate) (s : State) : (afterSetBaud r s).err = s.err := rfl
@[simp] theorem afterSetBaud_esticky (r : Rate) (s : State) : (afterSetBaud r s).esticky = s.esticky := rfl
@[simp] theorem afterSetBaud_argTicks (r : Rate) (s : State) : (afterSetBaud r s).argTicks = s.argTicks := rfl
@[simp] theorem afterSetBaud_argFlags (r : Rate) (s : State) : (afterSetBaud r s).argFlags = s.argFlags := rfl
@[simp] theorem afterSetBaud_argRate (r : Rate) (s : State) : (afterSetBaud r s).argRate = s.argRate := rfl
@[simp] theorem afterSetBaud_argLen (r : Rate) (s : State) : (afterSetBaud r s).argLen = s.argLen := rfl
@[simp] theorem afterSetBaud_rxlen (r : Rate) (s : State) : (afterSetBaud r s).rxlen = s.rxlen := rfl
@[simp] theorem afterSetBaud_resCks (r : Rate) (s : State) : (afterSetBaud r s).resCks = s.resCks := rfl
@[simp] theorem afterSetBaud_fwType (r : Rate) (s : State) : (afterSetBaud r s).fwType = s.fwType := rfl
@[simp] theorem afterSetBaud_fwMajor (r : Rate) (s : State) : (afterSetBaud r s).fwMajor = s.fwMajor := rfl
@[simp] theorem afterSetBaud_fwMinor (r : Rate) (s : State) : (afterSetBaud r s).fwMinor = s.fwMinor := rfl
@[simp] theorem afterSetBaud_substCnt (r : Rate) (s : State) : (afterSetBaud r s).substCnt = s.substCnt := rfl
@[simp] theorem afterSetBaud_substMap (r : Rate) (s : State) : (afterSetBaud r s).substMap = s.substMap := rfl
@[simp] theorem afterSetBaud_baudCur (r : Rate) (s : State) : (afterSetBaud r s).baudCur = s.baudCur := rfl
@[simp] theorem afterSetBaud_baudPrev (r : Rate) (s : State) : (afterSetBaud r s).baudPrev = s.baudPrev := rfl
@[simp] theorem afterSetBaud_cfgReadyMax (r : Rate) (s : State) : (afterSetBaud r s).cfgReadyMax = s.cfgReadyMax := rfl
@[simp] theorem afterSetBaud_polls (r : Rate) (s : State) : (afterSetBaud r s).polls = s.polls := rfl
@[simp] theorem afterSetBaud_txbuf (r : Rate) (s : State) : (afterSetBaud r s).txbuf = s.txbuf := rfl
@[simp] theorem afterSetBaud_rxbuf (r : Rate) (s : State) : (afterSetBaud r s).rxbuf = s.rxbuf := rfl
@[simp] theorem afterSetBaud_latch (r : Rate) (s : State) : (afterSetBaud r s).latch = s.latch := rfl
@[simp] theorem afterSetBaud_cksAcc (r : Rate) (s : State) : (afterSetBaud r s).cksAcc = s.cksAcc := rfl
@[simp] theorem afterSetBaud_cksEmpty (r : Rate) (s : State) : (afterSetBaud r s).cksEmpty = s.cksEmpty := rfl
@[simp] theorem afterSetBaud_lrcAcc (r : Rate) (s : State) : (afterSetBaud r s).lrcAcc = s.lrcAcc := rfl
@[simp] theorem afterSetBaud_raw (r : Rate) (s : State) : (afterSetBaud r s).raw = s.raw := rfl
@[simp] theorem afterSetBaud_img (r : Rate) (s : State) : (afterSetBaud r s).img = s.img := rfl
@[simp] theorem afterSetBaud_log (r : Rate) (s : State) : (afterSetBaud r s).log = s.log := rfl
@[simp] theorem afterSetBaud_cancel (r : Rate) (s : State) : (afterSetBaud r s).cancel = s.cancel := rfl
@[simp] theorem afterSetBaud_lineRate (r : Rate) (s : State) : (afterSetBaud r s).lineRate = if linkOk s then some r else none := rfl
@[simp] theorem afterSetBaud_answers (r : Rate) (s : State) : (afterSetBaud r s).answers = s.answers.tail := rfl
@[simp] theorem afterSetBaud_draws (r : Rate) (s : State) : (afterSetBaud r s).draws = if s.answers.isEmpty then s.draws + 1 else s.draws := rfl
@[simp] theorem afterSetBaud_traffic (r : Rate) (s : State) : (afterSetBaud r s).traffic = s.traffic ++ [.setBaud r (linkOk s)] := rfl
@[simp] theorem afterSetBaud_host (r : Rate) (s : State) : (afterSetBaud r s).host = s.host := rfl
@[simp] theorem afterSetBaud_readback (r : Rate) (s : State) : (afterSetBaud r s).readback = s.readback := rfl
@[simp] theorem afterSetBaud_wrote (r : Rate) (s : State) : (afterSetBaud r s).wrote = s.wrote := rfl
@[simp] theorem afterSetBaud_rawUnwritten (r : Rate) (s : State) : (afterSetBaud r s).rawUnwritten = s.rawUnwritten := rfl
@[simp] theorem afterSetBaud_memEpoch (r : Rate) (s : State) : (afterSetBaud r s).memEpoch = s.memEpoch := rfl
@[simp] theorem afterSetBaud_blkEpoch (r : Rate) (s : State) : (afterSetBaud r s).blkEpoch = s.blkEpoch := rfl
@[simp] theorem afterSetBaud_rxEpoch (r : Rate) (s : State) : (afterSetBaud r s).rxEpoch = s.rxEpoch := rfl

-- cksClear
@[simp] theorem cksClear_seq (s : State) : (cksClear s).seq = s.seq := rfl
@[simp] theorem cksClear_nblk (s : State) : (cksClear s).nblk = s.nblk := rfl
@[simp] theorem cksClear_blk (s : State) : (cksClear s).blk = s.blk := rfl
@[simp] theorem cksClear_att (s : State) : (cksClear s).att = s.att := rfl
@[simp] theorem cksClear_lastCmd (s : State) : (cksClear s).lastCmd = s.lastCmd := rfl
@[simp] theorem cksClear_status (s : State) : (cksClear s).status = s.status := rfl
@[simp] theorem cksClear_err (s : State) : (cksClear s).err = s.err := rfl
@[simp] theorem cksClear_esticky (s : State) : (cksClear s).esticky = s.esticky := rfl
@[simp] theorem cksClear_argTicks (s : State) : (cksClear s).argTicks = s.argTicks := rfl
@[simp] theorem cksClear_argFlags (s : State) : (cksClear s).argFlags = s.argFlags := rfl
@[simp] theorem cksClear_argRate (s : State) : (cksClear s).argRate = s.argRate := rfl
@[simp] theorem cksClear_argLen (s : State) : (cksClear s).argLen = s.argLen := rfl
@[simp] theorem cksClear_rxlen (s : State) : (cksClear s).rxlen = s.rxlen := rfl
@[simp] theorem cksClear_resCks (s : State) : (cksClear s).resCks = s.resCks := rfl
@[simp] theorem cksClear_fwType (s : State) : (cksClear s).fwType = s.fwType := rfl
@[simp] theorem cksClear_fwMajor (s : State) : (cksClear s).fwMajor = s.fwMajor := rfl
@[simp] theorem cksClear_fwMinor (s : State) : (cksClear s).fwMinor = s.fwMinor := rfl
@[simp] theorem cksClear_substCnt (s : State) : (cksClear s).substCnt = s.substCnt := rfl
@[simp] theorem cksClear_substMap (s : State) : (cksClear s).substMap = s.substMap := rfl
@[simp] theorem cksClear_baudCur (s : State) : (cksClear s).baudCur = s.baudCur := rfl
@[simp] theorem cksClear_baudPrev (s : State) : (cksClear s).baudPrev = s.baudPrev := rfl
@[simp] theorem cksClear_cfgReadyMax (s : State) : (cksClear s).cfgReadyMax = s.cfgReadyMax := rfl
@[simp] theorem cksClear_polls (s : State) : (cksClear s).polls = s.polls := rfl
@[simp] theorem cksClear_txbuf (s : State) : (cksClear s).txbuf = s.txbuf := rfl
@[simp] theorem cksClear_rxbuf (s : State) : (cksClear s).rxbuf = s.rxbuf := rfl
@[simp] theorem cksClear_latch (s : State) : (cksClear s).latch = s.latch := rfl
@[simp] theorem cksClear_cksAcc (s : State) : (cksClear s).cksAcc = s.cksAcc := rfl
@[simp] theorem cksClear_cksEmpty (s : State) : (cksClear s).cksEmpty = true := rfl
@[simp] theorem cksClear_lrcAcc (s : State) : (cksClear s).lrcAcc = s.lrcAcc := rfl
@[simp] theorem cksClear_raw (s : State) : (cksClear s).raw = s.raw := rfl
@[simp] theorem cksClear_img (s : State) : (cksClear s).img = s.img := rfl
@[simp] theorem cksClear_log (s : State) : (cksClear s).log = s.log := rfl
@[simp] theorem cksClear_cancel (s : State) : (cksClear s).cancel = s.cancel := rfl
@[simp] theorem cksClear_lineRate (s : State) : (cksClear s).lineRate = s.lineRate := rfl
@[simp] theorem cksClear_answers (s : State) : (cksClear s).answers = s.answers := rfl
@[simp] theorem cksClear_draws (s : State) : (cksClear s).draws = s.draws := rfl
@[simp] theorem cksClear_traffic (s : State) : (cksClear s).traffic = s.traffic := rfl
@[simp] theorem cksClear_host (s : State) : (cksClear s).host = s.host := rfl
@[simp] theorem cksClear_readback (s : State) : (cksClear s).readback = s.readback := rfl
@[simp] theorem cksClear_wrote (s : State) : (cksClear s).wrote = s.wrote := rfl
@[simp] theorem cksClear_rawUnwritten (s : State) : (cksClear s).rawUnwritten = s.rawUnwritten := rfl
@[simp] theorem cksClear_memEpoch (s : State) : (cksClear s).memEpoch = s.memEpoch := rfl
@[simp] theorem cksClear_blkEpoch (s : State) : (cksClear s).blkEpoch = s.blkEpoch := rfl
@[simp] theorem cksClear_rxEpoch (s : State) : (cksClear s).rxEpoch = s.rxEpoch := rfl

-- cksAbsorb
@[simp] theorem cksAbsorb_seq (b : Byte) (s : State) : (cksAbsorb b s).seq = s.seq := rfl
@[simp] theorem cksAbsorb_nblk (b : Byte) (s : State) : (cksAbsorb b s).nblk = s.nblk := rfl
@[simp] theorem cksAbsorb_blk (b : Byte) (s : State) : (cksAbsorb b s).blk = s.blk := rfl
@[simp] theorem cksAbsorb_att (b : Byte) (s : State) : (cksAbsorb b s).att = s.att := rfl
@[simp] theorem cksAbsorb_lastCmd (b : Byte) (s : State) : (cksAbsorb b s).lastCmd = s.lastCmd := rfl
@[simp] theorem cksAbsorb_status (b : Byte) (s : State) : (cksAbsorb b s).status = s.status := rfl
@[simp] theorem cksAbsorb_err (b : Byte) (s : State) : (cksAbsorb b s).err = s.err := rfl
@[simp] theorem cksAbsorb_esticky (b : Byte) (s : State) : (cksAbsorb b s).esticky = s.esticky := rfl
@[simp] theorem cksAbsorb_argTicks (b : Byte) (s : State) : (cksAbsorb b s).argTicks = s.argTicks := rfl
@[simp] theorem cksAbsorb_argFlags (b : Byte) (s : State) : (cksAbsorb b s).argFlags = s.argFlags := rfl
@[simp] theorem cksAbsorb_argRate (b : Byte) (s : State) : (cksAbsorb b s).argRate = s.argRate := rfl
@[simp] theorem cksAbsorb_argLen (b : Byte) (s : State) : (cksAbsorb b s).argLen = s.argLen := rfl
@[simp] theorem cksAbsorb_rxlen (b : Byte) (s : State) : (cksAbsorb b s).rxlen = s.rxlen := rfl
@[simp] theorem cksAbsorb_resCks (b : Byte) (s : State) : (cksAbsorb b s).resCks = s.resCks := rfl
@[simp] theorem cksAbsorb_fwType (b : Byte) (s : State) : (cksAbsorb b s).fwType = s.fwType := rfl
@[simp] theorem cksAbsorb_fwMajor (b : Byte) (s : State) : (cksAbsorb b s).fwMajor = s.fwMajor := rfl
@[simp] theorem cksAbsorb_fwMinor (b : Byte) (s : State) : (cksAbsorb b s).fwMinor = s.fwMinor := rfl
@[simp] theorem cksAbsorb_substCnt (b : Byte) (s : State) : (cksAbsorb b s).substCnt = s.substCnt := rfl
@[simp] theorem cksAbsorb_substMap (b : Byte) (s : State) : (cksAbsorb b s).substMap = s.substMap := rfl
@[simp] theorem cksAbsorb_baudCur (b : Byte) (s : State) : (cksAbsorb b s).baudCur = s.baudCur := rfl
@[simp] theorem cksAbsorb_baudPrev (b : Byte) (s : State) : (cksAbsorb b s).baudPrev = s.baudPrev := rfl
@[simp] theorem cksAbsorb_cfgReadyMax (b : Byte) (s : State) : (cksAbsorb b s).cfgReadyMax = s.cfgReadyMax := rfl
@[simp] theorem cksAbsorb_polls (b : Byte) (s : State) : (cksAbsorb b s).polls = s.polls := rfl
@[simp] theorem cksAbsorb_txbuf (b : Byte) (s : State) : (cksAbsorb b s).txbuf = s.txbuf := rfl
@[simp] theorem cksAbsorb_rxbuf (b : Byte) (s : State) : (cksAbsorb b s).rxbuf = s.rxbuf := rfl
@[simp] theorem cksAbsorb_latch (b : Byte) (s : State) : (cksAbsorb b s).latch = s.latch := rfl
@[simp] theorem cksAbsorb_cksAcc (b : Byte) (s : State) : (cksAbsorb b s).cksAcc = if s.cksEmpty then ckBits b else s.cksAcc ^^^ ckBits b := rfl
@[simp] theorem cksAbsorb_cksEmpty (b : Byte) (s : State) : (cksAbsorb b s).cksEmpty = false := rfl
@[simp] theorem cksAbsorb_lrcAcc (b : Byte) (s : State) : (cksAbsorb b s).lrcAcc = s.lrcAcc := rfl
@[simp] theorem cksAbsorb_raw (b : Byte) (s : State) : (cksAbsorb b s).raw = s.raw := rfl
@[simp] theorem cksAbsorb_img (b : Byte) (s : State) : (cksAbsorb b s).img = s.img := rfl
@[simp] theorem cksAbsorb_log (b : Byte) (s : State) : (cksAbsorb b s).log = s.log := rfl
@[simp] theorem cksAbsorb_cancel (b : Byte) (s : State) : (cksAbsorb b s).cancel = s.cancel := rfl
@[simp] theorem cksAbsorb_lineRate (b : Byte) (s : State) : (cksAbsorb b s).lineRate = s.lineRate := rfl
@[simp] theorem cksAbsorb_answers (b : Byte) (s : State) : (cksAbsorb b s).answers = s.answers := rfl
@[simp] theorem cksAbsorb_draws (b : Byte) (s : State) : (cksAbsorb b s).draws = s.draws := rfl
@[simp] theorem cksAbsorb_traffic (b : Byte) (s : State) : (cksAbsorb b s).traffic = s.traffic := rfl
@[simp] theorem cksAbsorb_host (b : Byte) (s : State) : (cksAbsorb b s).host = s.host := rfl
@[simp] theorem cksAbsorb_readback (b : Byte) (s : State) : (cksAbsorb b s).readback = s.readback := rfl
@[simp] theorem cksAbsorb_wrote (b : Byte) (s : State) : (cksAbsorb b s).wrote = s.wrote := rfl
@[simp] theorem cksAbsorb_rawUnwritten (b : Byte) (s : State) : (cksAbsorb b s).rawUnwritten = s.rawUnwritten := rfl
@[simp] theorem cksAbsorb_memEpoch (b : Byte) (s : State) : (cksAbsorb b s).memEpoch = s.memEpoch := rfl
@[simp] theorem cksAbsorb_blkEpoch (b : Byte) (s : State) : (cksAbsorb b s).blkEpoch = s.blkEpoch := rfl
@[simp] theorem cksAbsorb_rxEpoch (b : Byte) (s : State) : (cksAbsorb b s).rxEpoch = s.rxEpoch := rfl

-- receive
@[simp] theorem receive_seq (n : Nat) (s : State) : (receive n s).seq = s.seq := rfl
@[simp] theorem receive_nblk (n : Nat) (s : State) : (receive n s).nblk = s.nblk := rfl
@[simp] theorem receive_blk (n : Nat) (s : State) : (receive n s).blk = s.blk := rfl
@[simp] theorem receive_att (n : Nat) (s : State) : (receive n s).att = s.att := rfl
@[simp] theorem receive_lastCmd (n : Nat) (s : State) : (receive n s).lastCmd = s.lastCmd := rfl
@[simp] theorem receive_status (n : Nat) (s : State) : (receive n s).status = s.status := rfl
@[simp] theorem receive_err (n : Nat) (s : State) : (receive n s).err = s.err := rfl
@[simp] theorem receive_esticky (n : Nat) (s : State) : (receive n s).esticky = s.esticky := rfl
@[simp] theorem receive_argTicks (n : Nat) (s : State) : (receive n s).argTicks = s.argTicks := rfl
@[simp] theorem receive_argFlags (n : Nat) (s : State) : (receive n s).argFlags = s.argFlags := rfl
@[simp] theorem receive_argRate (n : Nat) (s : State) : (receive n s).argRate = s.argRate := rfl
@[simp] theorem receive_argLen (n : Nat) (s : State) : (receive n s).argLen = s.argLen := rfl
@[simp] theorem receive_rxlen (n : Nat) (s : State) : (receive n s).rxlen = BitVec.ofNat 8 (readLink n s).length := rfl
@[simp] theorem receive_resCks (n : Nat) (s : State) : (receive n s).resCks = s.resCks := rfl
@[simp] theorem receive_fwType (n : Nat) (s : State) : (receive n s).fwType = s.fwType := rfl
@[simp] theorem receive_fwMajor (n : Nat) (s : State) : (receive n s).fwMajor = s.fwMajor := rfl
@[simp] theorem receive_fwMinor (n : Nat) (s : State) : (receive n s).fwMinor = s.fwMinor := rfl
@[simp] theorem receive_substCnt (n : Nat) (s : State) : (receive n s).substCnt = s.substCnt := rfl
@[simp] theorem receive_substMap (n : Nat) (s : State) : (receive n s).substMap = s.substMap := rfl
@[simp] theorem receive_baudCur (n : Nat) (s : State) : (receive n s).baudCur = s.baudCur := rfl
@[simp] theorem receive_baudPrev (n : Nat) (s : State) : (receive n s).baudPrev = s.baudPrev := rfl
@[simp] theorem receive_cfgReadyMax (n : Nat) (s : State) : (receive n s).cfgReadyMax = s.cfgReadyMax := rfl
@[simp] theorem receive_polls (n : Nat) (s : State) : (receive n s).polls = s.polls := rfl
@[simp] theorem receive_txbuf (n : Nat) (s : State) : (receive n s).txbuf = s.txbuf := rfl
@[simp] theorem receive_rxbuf (n : Nat) (s : State) : (receive n s).rxbuf = rxStore (s.rxEpoch + 1) (readLink n s) := rfl
@[simp] theorem receive_latch (n : Nat) (s : State) : (receive n s).latch = s.latch := rfl
@[simp] theorem receive_cksAcc (n : Nat) (s : State) : (receive n s).cksAcc = s.cksAcc := rfl
@[simp] theorem receive_cksEmpty (n : Nat) (s : State) : (receive n s).cksEmpty = s.cksEmpty := rfl
@[simp] theorem receive_lrcAcc (n : Nat) (s : State) : (receive n s).lrcAcc = s.lrcAcc := rfl
@[simp] theorem receive_raw (n : Nat) (s : State) : (receive n s).raw = s.raw := rfl
@[simp] theorem receive_img (n : Nat) (s : State) : (receive n s).img = s.img := rfl
@[simp] theorem receive_log (n : Nat) (s : State) : (receive n s).log = s.log := rfl
@[simp] theorem receive_cancel (n : Nat) (s : State) : (receive n s).cancel = s.cancel := rfl
@[simp] theorem receive_lineRate (n : Nat) (s : State) : (receive n s).lineRate = s.lineRate := rfl
@[simp] theorem receive_answers (n : Nat) (s : State) : (receive n s).answers = s.answers.tail := rfl
@[simp] theorem receive_draws (n : Nat) (s : State) : (receive n s).draws = if s.answers.isEmpty then s.draws + 1 else s.draws := rfl
@[simp] theorem receive_traffic (n : Nat) (s : State) : (receive n s).traffic = s.traffic ++ [.read n (readLink n s)] := rfl
@[simp] theorem receive_host (n : Nat) (s : State) : (receive n s).host = s.host := rfl
@[simp] theorem receive_readback (n : Nat) (s : State) : (receive n s).readback = s.readback := rfl
@[simp] theorem receive_wrote (n : Nat) (s : State) : (receive n s).wrote = s.wrote := rfl
@[simp] theorem receive_rawUnwritten (n : Nat) (s : State) : (receive n s).rawUnwritten = s.rawUnwritten := rfl
@[simp] theorem receive_memEpoch (n : Nat) (s : State) : (receive n s).memEpoch = s.memEpoch := rfl
@[simp] theorem receive_blkEpoch (n : Nat) (s : State) : (receive n s).blkEpoch = s.blkEpoch := rfl
@[simp] theorem receive_rxEpoch (n : Nat) (s : State) : (receive n s).rxEpoch = s.rxEpoch + 1 := rfl

-- setFw
@[simp] theorem setFw_seq (x y : Byte) (s : State) : (setFw x y s).seq = s.seq := rfl
@[simp] theorem setFw_nblk (x y : Byte) (s : State) : (setFw x y s).nblk = s.nblk := rfl
@[simp] theorem setFw_blk (x y : Byte) (s : State) : (setFw x y s).blk = s.blk := rfl
@[simp] theorem setFw_att (x y : Byte) (s : State) : (setFw x y s).att = s.att := rfl
@[simp] theorem setFw_lastCmd (x y : Byte) (s : State) : (setFw x y s).lastCmd = s.lastCmd := rfl
@[simp] theorem setFw_status (x y : Byte) (s : State) : (setFw x y s).status = s.status := rfl
@[simp] theorem setFw_err (x y : Byte) (s : State) : (setFw x y s).err = s.err := rfl
@[simp] theorem setFw_esticky (x y : Byte) (s : State) : (setFw x y s).esticky = s.esticky := rfl
@[simp] theorem setFw_argTicks (x y : Byte) (s : State) : (setFw x y s).argTicks = s.argTicks := rfl
@[simp] theorem setFw_argFlags (x y : Byte) (s : State) : (setFw x y s).argFlags = s.argFlags := rfl
@[simp] theorem setFw_argRate (x y : Byte) (s : State) : (setFw x y s).argRate = s.argRate := rfl
@[simp] theorem setFw_argLen (x y : Byte) (s : State) : (setFw x y s).argLen = s.argLen := rfl
@[simp] theorem setFw_rxlen (x y : Byte) (s : State) : (setFw x y s).rxlen = s.rxlen := rfl
@[simp] theorem setFw_resCks (x y : Byte) (s : State) : (setFw x y s).resCks = s.resCks := rfl
@[simp] theorem setFw_fwType (x y : Byte) (s : State) : (setFw x y s).fwType = (fwDecode x y).1 := rfl
@[simp] theorem setFw_fwMajor (x y : Byte) (s : State) : (setFw x y s).fwMajor = (fwDecode x y).2.1 := rfl
@[simp] theorem setFw_fwMinor (x y : Byte) (s : State) : (setFw x y s).fwMinor = (fwDecode x y).2.2 := rfl
@[simp] theorem setFw_substCnt (x y : Byte) (s : State) : (setFw x y s).substCnt = s.substCnt := rfl
@[simp] theorem setFw_substMap (x y : Byte) (s : State) : (setFw x y s).substMap = s.substMap := rfl
@[simp] theorem setFw_baudCur (x y : Byte) (s : State) : (setFw x y s).baudCur = s.baudCur := rfl
@[simp] theorem setFw_baudPrev (x y : Byte) (s : State) : (setFw x y s).baudPrev = s.baudPrev := rfl
@[simp] theorem setFw_cfgReadyMax (x y : Byte) (s : State) : (setFw x y s).cfgReadyMax = s.cfgReadyMax := rfl
@[simp] theorem setFw_polls (x y : Byte) (s : State) : (setFw x y s).polls = s.polls := rfl
@[simp] theorem setFw_txbuf (x y : Byte) (s : State) : (setFw x y s).txbuf = s.txbuf := rfl
@[simp] theorem setFw_rxbuf (x y : Byte) (s : State) : (setFw x y s).rxbuf = s.rxbuf := rfl
@[simp] theorem setFw_latch (x y : Byte) (s : State) : (setFw x y s).latch = s.latch := rfl
@[simp] theorem setFw_cksAcc (x y : Byte) (s : State) : (setFw x y s).cksAcc = s.cksAcc := rfl
@[simp] theorem setFw_cksEmpty (x y : Byte) (s : State) : (setFw x y s).cksEmpty = s.cksEmpty := rfl
@[simp] theorem setFw_lrcAcc (x y : Byte) (s : State) : (setFw x y s).lrcAcc = s.lrcAcc := rfl
@[simp] theorem setFw_raw (x y : Byte) (s : State) : (setFw x y s).raw = s.raw := rfl
@[simp] theorem setFw_img (x y : Byte) (s : State) : (setFw x y s).img = s.img := rfl
@[simp] theorem setFw_log (x y : Byte) (s : State) : (setFw x y s).log = s.log := rfl
@[simp] theorem setFw_cancel (x y : Byte) (s : State) : (setFw x y s).cancel = s.cancel := rfl
@[simp] theorem setFw_lineRate (x y : Byte) (s : State) : (setFw x y s).lineRate = s.lineRate := rfl
@[simp] theorem setFw_answers (x y : Byte) (s : State) : (setFw x y s).answers = s.answers := rfl
@[simp] theorem setFw_draws (x y : Byte) (s : State) : (setFw x y s).draws = s.draws := rfl
@[simp] theorem setFw_traffic (x y : Byte) (s : State) : (setFw x y s).traffic = s.traffic := rfl
@[simp] theorem setFw_host (x y : Byte) (s : State) : (setFw x y s).host = s.host := rfl
@[simp] theorem setFw_readback (x y : Byte) (s : State) : (setFw x y s).readback = s.readback := rfl
@[simp] theorem setFw_wrote (x y : Byte) (s : State) : (setFw x y s).wrote = s.wrote := rfl
@[simp] theorem setFw_rawUnwritten (x y : Byte) (s : State) : (setFw x y s).rawUnwritten = s.rawUnwritten := rfl
@[simp] theorem setFw_memEpoch (x y : Byte) (s : State) : (setFw x y s).memEpoch = s.memEpoch := rfl
@[simp] theorem setFw_blkEpoch (x y : Byte) (s : State) : (setFw x y s).blkEpoch = s.blkEpoch := rfl
@[simp] theorem setFw_rxEpoch (x y : Byte) (s : State) : (setFw x y s).rxEpoch = s.rxEpoch := rfl

-- nextBlock
@[simp] theorem nextBlock_seq (s : State) : (nextBlock s).seq = if s.blk + 1#7 = s.nblk then .riEpi else .riBlk := rfl
@[simp] theorem nextBlock_nblk (s : State) : (nextBlock s).nblk = s.nblk := rfl
@[simp] theorem nextBlock_blk (s : State) : (nextBlock s).blk = s.blk + 1#7 := rfl
@[simp] theorem nextBlock_att (s : State) : (nextBlock s).att = 0#3 := rfl
@[simp] theorem nextBlock_lastCmd (s : State) : (nextBlock s).lastCmd = s.lastCmd := rfl
@[simp] theorem nextBlock_status (s : State) : (nextBlock s).status = s.status := rfl
@[simp] theorem nextBlock_err (s : State) : (nextBlock s).err = s.err := rfl
@[simp] theorem nextBlock_esticky (s : State) : (nextBlock s).esticky = s.esticky := rfl
@[simp] theorem nextBlock_argTicks (s : State) : (nextBlock s).argTicks = s.argTicks := rfl
@[simp] theorem nextBlock_argFlags (s : State) : (nextBlock s).argFlags = s.argFlags := rfl
@[simp] theorem nextBlock_argRate (s : State) : (nextBlock s).argRate = s.argRate := rfl
@[simp] theorem nextBlock_argLen (s : State) : (nextBlock s).argLen = s.argLen := rfl
@[simp] theorem nextBlock_rxlen (s : State) : (nextBlock s).rxlen = s.rxlen := rfl
@[simp] theorem nextBlock_resCks (s : State) : (nextBlock s).resCks = s.resCks := rfl
@[simp] theorem nextBlock_fwType (s : State) : (nextBlock s).fwType = s.fwType := rfl
@[simp] theorem nextBlock_fwMajor (s : State) : (nextBlock s).fwMajor = s.fwMajor := rfl
@[simp] theorem nextBlock_fwMinor (s : State) : (nextBlock s).fwMinor = s.fwMinor := rfl
@[simp] theorem nextBlock_substCnt (s : State) : (nextBlock s).substCnt = s.substCnt := rfl
@[simp] theorem nextBlock_substMap (s : State) : (nextBlock s).substMap = s.substMap := rfl
@[simp] theorem nextBlock_baudCur (s : State) : (nextBlock s).baudCur = s.baudCur := rfl
@[simp] theorem nextBlock_baudPrev (s : State) : (nextBlock s).baudPrev = s.baudPrev := rfl
@[simp] theorem nextBlock_cfgReadyMax (s : State) : (nextBlock s).cfgReadyMax = s.cfgReadyMax := rfl
@[simp] theorem nextBlock_polls (s : State) : (nextBlock s).polls = s.polls := rfl
@[simp] theorem nextBlock_txbuf (s : State) : (nextBlock s).txbuf = s.txbuf := rfl
@[simp] theorem nextBlock_rxbuf (s : State) : (nextBlock s).rxbuf = s.rxbuf := rfl
@[simp] theorem nextBlock_latch (s : State) : (nextBlock s).latch = s.latch := rfl
@[simp] theorem nextBlock_cksAcc (s : State) : (nextBlock s).cksAcc = s.cksAcc := rfl
@[simp] theorem nextBlock_cksEmpty (s : State) : (nextBlock s).cksEmpty = s.cksEmpty := rfl
@[simp] theorem nextBlock_lrcAcc (s : State) : (nextBlock s).lrcAcc = s.lrcAcc := rfl
@[simp] theorem nextBlock_raw (s : State) : (nextBlock s).raw = s.raw := rfl
@[simp] theorem nextBlock_img (s : State) : (nextBlock s).img = s.img := rfl
@[simp] theorem nextBlock_log (s : State) : (nextBlock s).log = s.log := rfl
@[simp] theorem nextBlock_cancel (s : State) : (nextBlock s).cancel = s.cancel := rfl
@[simp] theorem nextBlock_lineRate (s : State) : (nextBlock s).lineRate = s.lineRate := rfl
@[simp] theorem nextBlock_answers (s : State) : (nextBlock s).answers = s.answers := rfl
@[simp] theorem nextBlock_draws (s : State) : (nextBlock s).draws = s.draws := rfl
@[simp] theorem nextBlock_traffic (s : State) : (nextBlock s).traffic = s.traffic := rfl
@[simp] theorem nextBlock_host (s : State) : (nextBlock s).host = s.host := rfl
@[simp] theorem nextBlock_readback (s : State) : (nextBlock s).readback = s.readback := rfl
@[simp] theorem nextBlock_wrote (s : State) : (nextBlock s).wrote = s.wrote := rfl
@[simp] theorem nextBlock_rawUnwritten (s : State) : (nextBlock s).rawUnwritten = s.rawUnwritten := rfl
@[simp] theorem nextBlock_memEpoch (s : State) : (nextBlock s).memEpoch = s.memEpoch := rfl
@[simp] theorem nextBlock_blkEpoch (s : State) : (nextBlock s).blkEpoch = s.blkEpoch := rfl
@[simp] theorem nextBlock_rxEpoch (s : State) : (nextBlock s).rxEpoch = s.rxEpoch := rfl

-- storeBlock
@[simp] theorem storeBlock_seq (bs : List Byte) (s : State) : (storeBlock bs s).seq = s.seq := rfl
@[simp] theorem storeBlock_nblk (bs : List Byte) (s : State) : (storeBlock bs s).nblk = s.nblk := rfl
@[simp] theorem storeBlock_blk (bs : List Byte) (s : State) : (storeBlock bs s).blk = s.blk := rfl
@[simp] theorem storeBlock_att (bs : List Byte) (s : State) : (storeBlock bs s).att = s.att := rfl
@[simp] theorem storeBlock_lastCmd (bs : List Byte) (s : State) : (storeBlock bs s).lastCmd = s.lastCmd := rfl
@[simp] theorem storeBlock_status (bs : List Byte) (s : State) : (storeBlock bs s).status = s.status := rfl
@[simp] theorem storeBlock_err (bs : List Byte) (s : State) : (storeBlock bs s).err = s.err := rfl
@[simp] theorem storeBlock_esticky (bs : List Byte) (s : State) : (storeBlock bs s).esticky = s.esticky := rfl
@[simp] theorem storeBlock_argTicks (bs : List Byte) (s : State) : (storeBlock bs s).argTicks = s.argTicks := rfl
@[simp] theorem storeBlock_argFlags (bs : List Byte) (s : State) : (storeBlock bs s).argFlags = s.argFlags := rfl
@[simp] theorem storeBlock_argRate (bs : List Byte) (s : State) : (storeBlock bs s).argRate = s.argRate := rfl
@[simp] theorem storeBlock_argLen (bs : List Byte) (s : State) : (storeBlock bs s).argLen = s.argLen := rfl
@[simp] theorem storeBlock_rxlen (bs : List Byte) (s : State) : (storeBlock bs s).rxlen = s.rxlen := rfl
@[simp] theorem storeBlock_resCks (bs : List Byte) (s : State) : (storeBlock bs s).resCks = s.resCks := rfl
@[simp] theorem storeBlock_fwType (bs : List Byte) (s : State) : (storeBlock bs s).fwType = s.fwType := rfl
@[simp] theorem storeBlock_fwMajor (bs : List Byte) (s : State) : (storeBlock bs s).fwMajor = s.fwMajor := rfl
@[simp] theorem storeBlock_fwMinor (bs : List Byte) (s : State) : (storeBlock bs s).fwMinor = s.fwMinor := rfl
@[simp] theorem storeBlock_substCnt (bs : List Byte) (s : State) : (storeBlock bs s).substCnt = s.substCnt := rfl
@[simp] theorem storeBlock_substMap (bs : List Byte) (s : State) : (storeBlock bs s).substMap = s.substMap := rfl
@[simp] theorem storeBlock_baudCur (bs : List Byte) (s : State) : (storeBlock bs s).baudCur = s.baudCur := rfl
@[simp] theorem storeBlock_baudPrev (bs : List Byte) (s : State) : (storeBlock bs s).baudPrev = s.baudPrev := rfl
@[simp] theorem storeBlock_cfgReadyMax (bs : List Byte) (s : State) : (storeBlock bs s).cfgReadyMax = s.cfgReadyMax := rfl
@[simp] theorem storeBlock_polls (bs : List Byte) (s : State) : (storeBlock bs s).polls = s.polls := rfl
@[simp] theorem storeBlock_txbuf (bs : List Byte) (s : State) : (storeBlock bs s).txbuf = s.txbuf := rfl
@[simp] theorem storeBlock_rxbuf (bs : List Byte) (s : State) : (storeBlock bs s).rxbuf = s.rxbuf := rfl
@[simp] theorem storeBlock_latch (bs : List Byte) (s : State) : (storeBlock bs s).latch = s.latch := rfl
@[simp] theorem storeBlock_cksAcc (bs : List Byte) (s : State) : (storeBlock bs s).cksAcc = s.cksAcc := rfl
@[simp] theorem storeBlock_cksEmpty (bs : List Byte) (s : State) : (storeBlock bs s).cksEmpty = s.cksEmpty := rfl
@[simp] theorem storeBlock_lrcAcc (bs : List Byte) (s : State) : (storeBlock bs s).lrcAcc = s.lrcAcc := rfl
@[simp] theorem storeBlock_raw (bs : List Byte) (s : State) : (storeBlock bs s).raw = Memory.put s.raw (blockBase s) bs := rfl
@[simp] theorem storeBlock_img (bs : List Byte) (s : State) : (storeBlock bs s).img = s.img := rfl
@[simp] theorem storeBlock_log (bs : List Byte) (s : State) : (storeBlock bs s).log = s.log := rfl
@[simp] theorem storeBlock_cancel (bs : List Byte) (s : State) : (storeBlock bs s).cancel = s.cancel := rfl
@[simp] theorem storeBlock_lineRate (bs : List Byte) (s : State) : (storeBlock bs s).lineRate = s.lineRate := rfl
@[simp] theorem storeBlock_answers (bs : List Byte) (s : State) : (storeBlock bs s).answers = s.answers := rfl
@[simp] theorem storeBlock_draws (bs : List Byte) (s : State) : (storeBlock bs s).draws = s.draws := rfl
@[simp] theorem storeBlock_traffic (bs : List Byte) (s : State) : (storeBlock bs s).traffic = s.traffic := rfl
@[simp] theorem storeBlock_host (bs : List Byte) (s : State) : (storeBlock bs s).host = s.host := rfl
@[simp] theorem storeBlock_readback (bs : List Byte) (s : State) : (storeBlock bs s).readback = s.readback := rfl
@[simp] theorem storeBlock_wrote (bs : List Byte) (s : State) : (storeBlock bs s).wrote = s.wrote := rfl
@[simp] theorem storeBlock_rawUnwritten (bs : List Byte) (s : State) : (storeBlock bs s).rawUnwritten = Ranges.remove s.rawUnwritten (blockBase s) blockBytes := rfl
@[simp] theorem storeBlock_memEpoch (bs : List Byte) (s : State) : (storeBlock bs s).memEpoch = s.memEpoch := rfl
@[simp] theorem storeBlock_blkEpoch (bs : List Byte) (s : State) : (storeBlock bs s).blkEpoch = s.blkEpoch := rfl
@[simp] theorem storeBlock_rxEpoch (bs : List Byte) (s : State) : (storeBlock bs s).rxEpoch = s.rxEpoch := rfl

-- loseBlock
@[simp] theorem loseBlock_seq (s : State) : (loseBlock s).seq = s.seq := rfl
@[simp] theorem loseBlock_nblk (s : State) : (loseBlock s).nblk = s.nblk := rfl
@[simp] theorem loseBlock_blk (s : State) : (loseBlock s).blk = s.blk := rfl
@[simp] theorem loseBlock_att (s : State) : (loseBlock s).att = s.att := rfl
@[simp] theorem loseBlock_lastCmd (s : State) : (loseBlock s).lastCmd = s.lastCmd := rfl
@[simp] theorem loseBlock_status (s : State) : (loseBlock s).status = s.status := rfl
@[simp] theorem loseBlock_err (s : State) : (loseBlock s).err = s.err := rfl
@[simp] theorem loseBlock_esticky (s : State) : (loseBlock s).esticky = s.esticky := rfl
@[simp] theorem loseBlock_argTicks (s : State) : (loseBlock s).argTicks = s.argTicks := rfl
@[simp] theorem loseBlock_argFlags (s : State) : (loseBlock s).argFlags = s.argFlags := rfl
@[simp] theorem loseBlock_argRate (s : State) : (loseBlock s).argRate = s.argRate := rfl
@[simp] theorem loseBlock_argLen (s : State) : (loseBlock s).argLen = s.argLen := rfl
@[simp] theorem loseBlock_rxlen (s : State) : (loseBlock s).rxlen = s.rxlen := rfl
@[simp] theorem loseBlock_resCks (s : State) : (loseBlock s).resCks = s.resCks := rfl
@[simp] theorem loseBlock_fwType (s : State) : (loseBlock s).fwType = s.fwType := rfl
@[simp] theorem loseBlock_fwMajor (s : State) : (loseBlock s).fwMajor = s.fwMajor := rfl
@[simp] theorem loseBlock_fwMinor (s : State) : (loseBlock s).fwMinor = s.fwMinor := rfl
@[simp] theorem loseBlock_substCnt (s : State) : (loseBlock s).substCnt = s.substCnt := rfl
@[simp] theorem loseBlock_substMap (s : State) : (loseBlock s).substMap = s.substMap := rfl
@[simp] theorem loseBlock_baudCur (s : State) : (loseBlock s).baudCur = s.baudCur := rfl
@[simp] theorem loseBlock_baudPrev (s : State) : (loseBlock s).baudPrev = s.baudPrev := rfl
@[simp] theorem loseBlock_cfgReadyMax (s : State) : (loseBlock s).cfgReadyMax = s.cfgReadyMax := rfl
@[simp] theorem loseBlock_polls (s : State) : (loseBlock s).polls = s.polls := rfl
@[simp] theorem loseBlock_txbuf (s : State) : (loseBlock s).txbuf = s.txbuf := rfl
@[simp] theorem loseBlock_rxbuf (s : State) : (loseBlock s).rxbuf = s.rxbuf := rfl
@[simp] theorem loseBlock_latch (s : State) : (loseBlock s).latch = s.latch := rfl
@[simp] theorem loseBlock_cksAcc (s : State) : (loseBlock s).cksAcc = s.cksAcc := rfl
@[simp] theorem loseBlock_cksEmpty (s : State) : (loseBlock s).cksEmpty = s.cksEmpty := rfl
@[simp] theorem loseBlock_lrcAcc (s : State) : (loseBlock s).lrcAcc = s.lrcAcc := rfl
@[simp] theorem loseBlock_raw (s : State) : (loseBlock s).raw = Memory.put s.raw (blockBase s) (lostBytes (s.blkEpoch + 1) (blockBase s)) := rfl
@[simp] theorem loseBlock_img (s : State) : (loseBlock s).img = s.img := rfl
@[simp] theorem loseBlock_log (s : State) : (loseBlock s).log = s.log := rfl
@[simp] theorem loseBlock_cancel (s : State) : (loseBlock s).cancel = s.cancel := rfl
@[simp] theorem loseBlock_lineRate (s : State) : (loseBlock s).lineRate = s.lineRate := rfl
@[simp] theorem loseBlock_answers (s : State) : (loseBlock s).answers = s.answers := rfl
@[simp] theorem loseBlock_draws (s : State) : (loseBlock s).draws = s.draws := rfl
@[simp] theorem loseBlock_traffic (s : State) : (loseBlock s).traffic = s.traffic := rfl
@[simp] theorem loseBlock_host (s : State) : (loseBlock s).host = s.host := rfl
@[simp] theorem loseBlock_readback (s : State) : (loseBlock s).readback = s.readback := rfl
@[simp] theorem loseBlock_wrote (s : State) : (loseBlock s).wrote = s.wrote := rfl
@[simp] theorem loseBlock_rawUnwritten (s : State) : (loseBlock s).rawUnwritten = Ranges.remove s.rawUnwritten (blockBase s) blockBytes := rfl
@[simp] theorem loseBlock_memEpoch (s : State) : (loseBlock s).memEpoch = s.memEpoch := rfl
@[simp] theorem loseBlock_blkEpoch (s : State) : (loseBlock s).blkEpoch = s.blkEpoch + 1 := rfl
@[simp] theorem loseBlock_rxEpoch (s : State) : (loseBlock s).rxEpoch = s.rxEpoch := rfl

-- substitute
@[simp] theorem substitute_seq (s : State) : (substitute s).seq = s.seq := rfl
@[simp] theorem substitute_nblk (s : State) : (substitute s).nblk = s.nblk := rfl
@[simp] theorem substitute_blk (s : State) : (substitute s).blk = s.blk := rfl
@[simp] theorem substitute_att (s : State) : (substitute s).att = s.att := rfl
@[simp] theorem substitute_lastCmd (s : State) : (substitute s).lastCmd = s.lastCmd := rfl
@[simp] theorem substitute_status (s : State) : (substitute s).status = s.status := rfl
@[simp] theorem substitute_err (s : State) : (substitute s).err = s.err := rfl
@[simp] theorem substitute_esticky (s : State) : (substitute s).esticky = s.esticky := rfl
@[simp] theorem substitute_argTicks (s : State) : (substitute s).argTicks = s.argTicks := rfl
@[simp] theorem substitute_argFlags (s : State) : (substitute s).argFlags = s.argFlags := rfl
@[simp] theorem substitute_argRate (s : State) : (substitute s).argRate = s.argRate := rfl
@[simp] theorem substitute_argLen (s : State) : (substitute s).argLen = s.argLen := rfl
@[simp] theorem substitute_rxlen (s : State) : (substitute s).rxlen = s.rxlen := rfl
@[simp] theorem substitute_resCks (s : State) : (substitute s).resCks = s.resCks := rfl
@[simp] theorem substitute_fwType (s : State) : (substitute s).fwType = s.fwType := rfl
@[simp] theorem substitute_fwMajor (s : State) : (substitute s).fwMajor = s.fwMajor := rfl
@[simp] theorem substitute_fwMinor (s : State) : (substitute s).fwMinor = s.fwMinor := rfl
@[simp] theorem substitute_substCnt (s : State) : (substitute s).substCnt = s.substCnt + 1#7 := rfl
@[simp] theorem substitute_substMap (s : State) : (substitute s).substMap = substSet s.blk s.substMap := rfl
@[simp] theorem substitute_baudCur (s : State) : (substitute s).baudCur = s.baudCur := rfl
@[simp] theorem substitute_baudPrev (s : State) : (substitute s).baudPrev = s.baudPrev := rfl
@[simp] theorem substitute_cfgReadyMax (s : State) : (substitute s).cfgReadyMax = s.cfgReadyMax := rfl
@[simp] theorem substitute_polls (s : State) : (substitute s).polls = s.polls := rfl
@[simp] theorem substitute_txbuf (s : State) : (substitute s).txbuf = s.txbuf := rfl
@[simp] theorem substitute_rxbuf (s : State) : (substitute s).rxbuf = s.rxbuf := rfl
@[simp] theorem substitute_latch (s : State) : (substitute s).latch = s.latch := rfl
@[simp] theorem substitute_cksAcc (s : State) : (substitute s).cksAcc = s.cksAcc := rfl
@[simp] theorem substitute_cksEmpty (s : State) : (substitute s).cksEmpty = s.cksEmpty := rfl
@[simp] theorem substitute_lrcAcc (s : State) : (substitute s).lrcAcc = s.lrcAcc := rfl
@[simp] theorem substitute_raw (s : State) : (substitute s).raw = Memory.put s.raw (blockBase s) (List.replicate blockBytes 0#8) := rfl
@[simp] theorem substitute_img (s : State) : (substitute s).img = s.img := rfl
@[simp] theorem substitute_log (s : State) : (substitute s).log = s.log := rfl
@[simp] theorem substitute_cancel (s : State) : (substitute s).cancel = s.cancel := rfl
@[simp] theorem substitute_lineRate (s : State) : (substitute s).lineRate = s.lineRate := rfl
@[simp] theorem substitute_answers (s : State) : (substitute s).answers = s.answers := rfl
@[simp] theorem substitute_draws (s : State) : (substitute s).draws = s.draws := rfl
@[simp] theorem substitute_traffic (s : State) : (substitute s).traffic = s.traffic := rfl
@[simp] theorem substitute_host (s : State) : (substitute s).host = s.host := rfl
@[simp] theorem substitute_readback (s : State) : (substitute s).readback = s.readback := rfl
@[simp] theorem substitute_wrote (s : State) : (substitute s).wrote = s.wrote := rfl
@[simp] theorem substitute_rawUnwritten (s : State) : (substitute s).rawUnwritten = Ranges.remove s.rawUnwritten (blockBase s) blockBytes := rfl
@[simp] theorem substitute_memEpoch (s : State) : (substitute s).memEpoch = s.memEpoch := rfl
@[simp] theorem substitute_blkEpoch (s : State) : (substitute s).blkEpoch = s.blkEpoch := rfl
@[simp] theorem substitute_rxEpoch (s : State) : (substitute s).rxEpoch = s.rxEpoch := rfl

-- decodeRaw
@[simp] theorem decodeRaw_seq (c : Bool) (s : State) : (decodeRaw c s).seq = s.seq := rfl
@[simp] theorem decodeRaw_nblk (c : Bool) (s : State) : (decodeRaw c s).nblk = s.nblk := rfl
@[simp] theorem decodeRaw_blk (c : Bool) (s : State) : (decodeRaw c s).blk = s.blk := rfl
@[simp] theorem decodeRaw_att (c : Bool) (s : State) : (decodeRaw c s).att = s.att := rfl
@[simp] theorem decodeRaw_lastCmd (c : Bool) (s : State) : (decodeRaw c s).lastCmd = s.lastCmd := rfl
@[simp] theorem decodeRaw_status (c : Bool) (s : State) : (decodeRaw c s).status = s.status := rfl
@[simp] theorem decodeRaw_err (c : Bool) (s : State) : (decodeRaw c s).err = s.err := rfl
@[simp] theorem decodeRaw_esticky (c : Bool) (s : State) : (decodeRaw c s).esticky = s.esticky := rfl
@[simp] theorem decodeRaw_argTicks (c : Bool) (s : State) : (decodeRaw c s).argTicks = s.argTicks := rfl
@[simp] theorem decodeRaw_argFlags (c : Bool) (s : State) : (decodeRaw c s).argFlags = s.argFlags := rfl
@[simp] theorem decodeRaw_argRate (c : Bool) (s : State) : (decodeRaw c s).argRate = s.argRate := rfl
@[simp] theorem decodeRaw_argLen (c : Bool) (s : State) : (decodeRaw c s).argLen = s.argLen := rfl
@[simp] theorem decodeRaw_rxlen (c : Bool) (s : State) : (decodeRaw c s).rxlen = s.rxlen := rfl
@[simp] theorem decodeRaw_resCks (c : Bool) (s : State) : (decodeRaw c s).resCks = s.resCks := rfl
@[simp] theorem decodeRaw_fwType (c : Bool) (s : State) : (decodeRaw c s).fwType = s.fwType := rfl
@[simp] theorem decodeRaw_fwMajor (c : Bool) (s : State) : (decodeRaw c s).fwMajor = s.fwMajor := rfl
@[simp] theorem decodeRaw_fwMinor (c : Bool) (s : State) : (decodeRaw c s).fwMinor = s.fwMinor := rfl
@[simp] theorem decodeRaw_substCnt (c : Bool) (s : State) : (decodeRaw c s).substCnt = s.substCnt := rfl
@[simp] theorem decodeRaw_substMap (c : Bool) (s : State) : (decodeRaw c s).substMap = s.substMap := rfl
@[simp] theorem decodeRaw_baudCur (c : Bool) (s : State) : (decodeRaw c s).baudCur = s.baudCur := rfl
@[simp] theorem decodeRaw_baudPrev (c : Bool) (s : State) : (decodeRaw c s).baudPrev = s.baudPrev := rfl
@[simp] theorem decodeRaw_cfgReadyMax (c : Bool) (s : State) : (decodeRaw c s).cfgReadyMax = s.cfgReadyMax := rfl
@[simp] theorem decodeRaw_polls (c : Bool) (s : State) : (decodeRaw c s).polls = s.polls := rfl
@[simp] theorem decodeRaw_txbuf (c : Bool) (s : State) : (decodeRaw c s).txbuf = s.txbuf := rfl
@[simp] theorem decodeRaw_rxbuf (c : Bool) (s : State) : (decodeRaw c s).rxbuf = s.rxbuf := rfl
@[simp] theorem decodeRaw_latch (c : Bool) (s : State) : (decodeRaw c s).latch = s.latch := rfl
@[simp] theorem decodeRaw_cksAcc (c : Bool) (s : State) : (decodeRaw c s).cksAcc = s.cksAcc := rfl
@[simp] theorem decodeRaw_cksEmpty (c : Bool) (s : State) : (decodeRaw c s).cksEmpty = s.cksEmpty := rfl
@[simp] theorem decodeRaw_lrcAcc (c : Bool) (s : State) : (decodeRaw c s).lrcAcc = s.lrcAcc := rfl
@[simp] theorem decodeRaw_raw (c : Bool) (s : State) : (decodeRaw c s).raw = s.raw := rfl
@[simp] theorem decodeRaw_img (c : Bool) (s : State) : (decodeRaw c s).img = Memory.put s.img 0 (decodeImage Config.pixOrder (imageCols c) (rawStream c s)) := rfl
@[simp] theorem decodeRaw_log (c : Bool) (s : State) : (decodeRaw c s).log = s.log := rfl
@[simp] theorem decodeRaw_cancel (c : Bool) (s : State) : (decodeRaw c s).cancel = s.cancel := rfl
@[simp] theorem decodeRaw_lineRate (c : Bool) (s : State) : (decodeRaw c s).lineRate = s.lineRate := rfl
@[simp] theorem decodeRaw_answers (c : Bool) (s : State) : (decodeRaw c s).answers = s.answers := rfl
@[simp] theorem decodeRaw_draws (c : Bool) (s : State) : (decodeRaw c s).draws = s.draws := rfl
@[simp] theorem decodeRaw_traffic (c : Bool) (s : State) : (decodeRaw c s).traffic = s.traffic := rfl
@[simp] theorem decodeRaw_host (c : Bool) (s : State) : (decodeRaw c s).host = s.host := rfl
@[simp] theorem decodeRaw_readback (c : Bool) (s : State) : (decodeRaw c s).readback = s.readback := rfl
@[simp] theorem decodeRaw_wrote (c : Bool) (s : State) : (decodeRaw c s).wrote = s.wrote := rfl
@[simp] theorem decodeRaw_rawUnwritten (c : Bool) (s : State) : (decodeRaw c s).rawUnwritten = s.rawUnwritten := rfl
@[simp] theorem decodeRaw_memEpoch (c : Bool) (s : State) : (decodeRaw c s).memEpoch = s.memEpoch := rfl
@[simp] theorem decodeRaw_blkEpoch (c : Bool) (s : State) : (decodeRaw c s).blkEpoch = s.blkEpoch := rfl
@[simp] theorem decodeRaw_rxEpoch (c : Bool) (s : State) : (decodeRaw c s).rxEpoch = s.rxEpoch := rfl

-- popHost
@[simp] theorem popHost_seq (s : State) : (popHost s).seq = s.seq := rfl
@[simp] theorem popHost_nblk (s : State) : (popHost s).nblk = s.nblk := rfl
@[simp] theorem popHost_blk (s : State) : (popHost s).blk = s.blk := rfl
@[simp] theorem popHost_att (s : State) : (popHost s).att = s.att := rfl
@[simp] theorem popHost_lastCmd (s : State) : (popHost s).lastCmd = s.lastCmd := rfl
@[simp] theorem popHost_status (s : State) : (popHost s).status = s.status := rfl
@[simp] theorem popHost_err (s : State) : (popHost s).err = s.err := rfl
@[simp] theorem popHost_esticky (s : State) : (popHost s).esticky = s.esticky := rfl
@[simp] theorem popHost_argTicks (s : State) : (popHost s).argTicks = s.argTicks := rfl
@[simp] theorem popHost_argFlags (s : State) : (popHost s).argFlags = s.argFlags := rfl
@[simp] theorem popHost_argRate (s : State) : (popHost s).argRate = s.argRate := rfl
@[simp] theorem popHost_argLen (s : State) : (popHost s).argLen = s.argLen := rfl
@[simp] theorem popHost_rxlen (s : State) : (popHost s).rxlen = s.rxlen := rfl
@[simp] theorem popHost_resCks (s : State) : (popHost s).resCks = s.resCks := rfl
@[simp] theorem popHost_fwType (s : State) : (popHost s).fwType = s.fwType := rfl
@[simp] theorem popHost_fwMajor (s : State) : (popHost s).fwMajor = s.fwMajor := rfl
@[simp] theorem popHost_fwMinor (s : State) : (popHost s).fwMinor = s.fwMinor := rfl
@[simp] theorem popHost_substCnt (s : State) : (popHost s).substCnt = s.substCnt := rfl
@[simp] theorem popHost_substMap (s : State) : (popHost s).substMap = s.substMap := rfl
@[simp] theorem popHost_baudCur (s : State) : (popHost s).baudCur = s.baudCur := rfl
@[simp] theorem popHost_baudPrev (s : State) : (popHost s).baudPrev = s.baudPrev := rfl
@[simp] theorem popHost_cfgReadyMax (s : State) : (popHost s).cfgReadyMax = s.cfgReadyMax := rfl
@[simp] theorem popHost_polls (s : State) : (popHost s).polls = s.polls := rfl
@[simp] theorem popHost_txbuf (s : State) : (popHost s).txbuf = s.txbuf := rfl
@[simp] theorem popHost_rxbuf (s : State) : (popHost s).rxbuf = s.rxbuf := rfl
@[simp] theorem popHost_latch (s : State) : (popHost s).latch = s.latch := rfl
@[simp] theorem popHost_cksAcc (s : State) : (popHost s).cksAcc = s.cksAcc := rfl
@[simp] theorem popHost_cksEmpty (s : State) : (popHost s).cksEmpty = s.cksEmpty := rfl
@[simp] theorem popHost_lrcAcc (s : State) : (popHost s).lrcAcc = s.lrcAcc := rfl
@[simp] theorem popHost_raw (s : State) : (popHost s).raw = s.raw := rfl
@[simp] theorem popHost_img (s : State) : (popHost s).img = s.img := rfl
@[simp] theorem popHost_log (s : State) : (popHost s).log = s.log := rfl
@[simp] theorem popHost_cancel (s : State) : (popHost s).cancel = s.cancel := rfl
@[simp] theorem popHost_lineRate (s : State) : (popHost s).lineRate = s.lineRate := rfl
@[simp] theorem popHost_answers (s : State) : (popHost s).answers = s.answers := rfl
@[simp] theorem popHost_draws (s : State) : (popHost s).draws = s.draws := rfl
@[simp] theorem popHost_traffic (s : State) : (popHost s).traffic = s.traffic := rfl
@[simp] theorem popHost_host (s : State) : (popHost s).host = s.host.tail := rfl
@[simp] theorem popHost_readback (s : State) : (popHost s).readback = s.readback := rfl
@[simp] theorem popHost_wrote (s : State) : (popHost s).wrote = s.wrote := rfl
@[simp] theorem popHost_rawUnwritten (s : State) : (popHost s).rawUnwritten = s.rawUnwritten := rfl
@[simp] theorem popHost_memEpoch (s : State) : (popHost s).memEpoch = s.memEpoch := rfl
@[simp] theorem popHost_blkEpoch (s : State) : (popHost s).blkEpoch = s.blkEpoch := rfl
@[simp] theorem popHost_rxEpoch (s : State) : (popHost s).rxEpoch = s.rxEpoch := rfl

-- writeTx
@[simp] theorem writeTx_seq (k : Nat) (v : Byte) (s : State) : (writeTx k v s).seq = s.seq := rfl
@[simp] theorem writeTx_nblk (k : Nat) (v : Byte) (s : State) : (writeTx k v s).nblk = s.nblk := rfl
@[simp] theorem writeTx_blk (k : Nat) (v : Byte) (s : State) : (writeTx k v s).blk = s.blk := rfl
@[simp] theorem writeTx_att (k : Nat) (v : Byte) (s : State) : (writeTx k v s).att = s.att := rfl
@[simp] theorem writeTx_lastCmd (k : Nat) (v : Byte) (s : State) : (writeTx k v s).lastCmd = s.lastCmd := rfl
@[simp] theorem writeTx_status (k : Nat) (v : Byte) (s : State) : (writeTx k v s).status = s.status := rfl
@[simp] theorem writeTx_err (k : Nat) (v : Byte) (s : State) : (writeTx k v s).err = s.err := rfl
@[simp] theorem writeTx_esticky (k : Nat) (v : Byte) (s : State) : (writeTx k v s).esticky = s.esticky := rfl
@[simp] theorem writeTx_argTicks (k : Nat) (v : Byte) (s : State) : (writeTx k v s).argTicks = s.argTicks := rfl
@[simp] theorem writeTx_argFlags (k : Nat) (v : Byte) (s : State) : (writeTx k v s).argFlags = s.argFlags := rfl
@[simp] theorem writeTx_argRate (k : Nat) (v : Byte) (s : State) : (writeTx k v s).argRate = s.argRate := rfl
@[simp] theorem writeTx_argLen (k : Nat) (v : Byte) (s : State) : (writeTx k v s).argLen = s.argLen := rfl
@[simp] theorem writeTx_rxlen (k : Nat) (v : Byte) (s : State) : (writeTx k v s).rxlen = s.rxlen := rfl
@[simp] theorem writeTx_resCks (k : Nat) (v : Byte) (s : State) : (writeTx k v s).resCks = s.resCks := rfl
@[simp] theorem writeTx_fwType (k : Nat) (v : Byte) (s : State) : (writeTx k v s).fwType = s.fwType := rfl
@[simp] theorem writeTx_fwMajor (k : Nat) (v : Byte) (s : State) : (writeTx k v s).fwMajor = s.fwMajor := rfl
@[simp] theorem writeTx_fwMinor (k : Nat) (v : Byte) (s : State) : (writeTx k v s).fwMinor = s.fwMinor := rfl
@[simp] theorem writeTx_substCnt (k : Nat) (v : Byte) (s : State) : (writeTx k v s).substCnt = s.substCnt := rfl
@[simp] theorem writeTx_substMap (k : Nat) (v : Byte) (s : State) : (writeTx k v s).substMap = s.substMap := rfl
@[simp] theorem writeTx_baudCur (k : Nat) (v : Byte) (s : State) : (writeTx k v s).baudCur = s.baudCur := rfl
@[simp] theorem writeTx_baudPrev (k : Nat) (v : Byte) (s : State) : (writeTx k v s).baudPrev = s.baudPrev := rfl
@[simp] theorem writeTx_cfgReadyMax (k : Nat) (v : Byte) (s : State) : (writeTx k v s).cfgReadyMax = s.cfgReadyMax := rfl
@[simp] theorem writeTx_polls (k : Nat) (v : Byte) (s : State) : (writeTx k v s).polls = s.polls := rfl
@[simp] theorem writeTx_txbuf (k : Nat) (v : Byte) (s : State) : (writeTx k v s).txbuf = s.txbuf.set k v := rfl
@[simp] theorem writeTx_rxbuf (k : Nat) (v : Byte) (s : State) : (writeTx k v s).rxbuf = s.rxbuf := rfl
@[simp] theorem writeTx_latch (k : Nat) (v : Byte) (s : State) : (writeTx k v s).latch = s.latch := rfl
@[simp] theorem writeTx_cksAcc (k : Nat) (v : Byte) (s : State) : (writeTx k v s).cksAcc = s.cksAcc := rfl
@[simp] theorem writeTx_cksEmpty (k : Nat) (v : Byte) (s : State) : (writeTx k v s).cksEmpty = s.cksEmpty := rfl
@[simp] theorem writeTx_lrcAcc (k : Nat) (v : Byte) (s : State) : (writeTx k v s).lrcAcc = s.lrcAcc := rfl
@[simp] theorem writeTx_raw (k : Nat) (v : Byte) (s : State) : (writeTx k v s).raw = s.raw := rfl
@[simp] theorem writeTx_img (k : Nat) (v : Byte) (s : State) : (writeTx k v s).img = s.img := rfl
@[simp] theorem writeTx_log (k : Nat) (v : Byte) (s : State) : (writeTx k v s).log = s.log := rfl
@[simp] theorem writeTx_cancel (k : Nat) (v : Byte) (s : State) : (writeTx k v s).cancel = s.cancel := rfl
@[simp] theorem writeTx_lineRate (k : Nat) (v : Byte) (s : State) : (writeTx k v s).lineRate = s.lineRate := rfl
@[simp] theorem writeTx_answers (k : Nat) (v : Byte) (s : State) : (writeTx k v s).answers = s.answers := rfl
@[simp] theorem writeTx_draws (k : Nat) (v : Byte) (s : State) : (writeTx k v s).draws = s.draws := rfl
@[simp] theorem writeTx_traffic (k : Nat) (v : Byte) (s : State) : (writeTx k v s).traffic = s.traffic := rfl
@[simp] theorem writeTx_host (k : Nat) (v : Byte) (s : State) : (writeTx k v s).host = s.host := rfl
@[simp] theorem writeTx_readback (k : Nat) (v : Byte) (s : State) : (writeTx k v s).readback = s.readback := rfl
@[simp] theorem writeTx_wrote (k : Nat) (v : Byte) (s : State) : (writeTx k v s).wrote = { s.wrote with txbuf := s.wrote.txbuf ||| (1#16 <<< k) } := rfl
@[simp] theorem writeTx_rawUnwritten (k : Nat) (v : Byte) (s : State) : (writeTx k v s).rawUnwritten = s.rawUnwritten := rfl
@[simp] theorem writeTx_memEpoch (k : Nat) (v : Byte) (s : State) : (writeTx k v s).memEpoch = s.memEpoch := rfl
@[simp] theorem writeTx_blkEpoch (k : Nat) (v : Byte) (s : State) : (writeTx k v s).blkEpoch = s.blkEpoch := rfl
@[simp] theorem writeTx_rxEpoch (k : Nat) (v : Byte) (s : State) : (writeTx k v s).rxEpoch = s.rxEpoch := rfl

-- writeRaw
@[simp] theorem writeRaw_seq (a : Nat) (v : Byte) (s : State) : (writeRaw a v s).seq = s.seq := rfl
@[simp] theorem writeRaw_nblk (a : Nat) (v : Byte) (s : State) : (writeRaw a v s).nblk = s.nblk := rfl
@[simp] theorem writeRaw_blk (a : Nat) (v : Byte) (s : State) : (writeRaw a v s).blk = s.blk := rfl
@[simp] theorem writeRaw_att (a : Nat) (v : Byte) (s : State) : (writeRaw a v s).att = s.att := rfl
@[simp] theorem writeRaw_lastCmd (a : Nat) (v : Byte) (s : State) : (writeRaw a v s).lastCmd = s.lastCmd := rfl
@[simp] theorem writeRaw_status (a : Nat) (v : Byte) (s : State) : (writeRaw a v s).status = s.status := rfl
@[simp] theorem writeRaw_err (a : Nat) (v : Byte) (s : State) : (writeRaw a v s).err = s.err := rfl
@[simp] theorem writeRaw_esticky (a : Nat) (v : Byte) (s : State) : (writeRaw a v s).esticky = s.esticky := rfl
@[simp] theorem writeRaw_argTicks (a : Nat) (v : Byte) (s : State) : (writeRaw a v s).argTicks = s.argTicks := rfl
@[simp] theorem writeRaw_argFlags (a : Nat) (v : Byte) (s : State) : (writeRaw a v s).argFlags = s.argFlags := rfl
@[simp] theorem writeRaw_argRate (a : Nat) (v : Byte) (s : State) : (writeRaw a v s).argRate = s.argRate := rfl
@[simp] theorem writeRaw_argLen (a : Nat) (v : Byte) (s : State) : (writeRaw a v s).argLen = s.argLen := rfl
@[simp] theorem writeRaw_rxlen (a : Nat) (v : Byte) (s : State) : (writeRaw a v s).rxlen = s.rxlen := rfl
@[simp] theorem writeRaw_resCks (a : Nat) (v : Byte) (s : State) : (writeRaw a v s).resCks = s.resCks := rfl
@[simp] theorem writeRaw_fwType (a : Nat) (v : Byte) (s : State) : (writeRaw a v s).fwType = s.fwType := rfl
@[simp] theorem writeRaw_fwMajor (a : Nat) (v : Byte) (s : State) : (writeRaw a v s).fwMajor = s.fwMajor := rfl
@[simp] theorem writeRaw_fwMinor (a : Nat) (v : Byte) (s : State) : (writeRaw a v s).fwMinor = s.fwMinor := rfl
@[simp] theorem writeRaw_substCnt (a : Nat) (v : Byte) (s : State) : (writeRaw a v s).substCnt = s.substCnt := rfl
@[simp] theorem writeRaw_substMap (a : Nat) (v : Byte) (s : State) : (writeRaw a v s).substMap = s.substMap := rfl
@[simp] theorem writeRaw_baudCur (a : Nat) (v : Byte) (s : State) : (writeRaw a v s).baudCur = s.baudCur := rfl
@[simp] theorem writeRaw_baudPrev (a : Nat) (v : Byte) (s : State) : (writeRaw a v s).baudPrev = s.baudPrev := rfl
@[simp] theorem writeRaw_cfgReadyMax (a : Nat) (v : Byte) (s : State) : (writeRaw a v s).cfgReadyMax = s.cfgReadyMax := rfl
@[simp] theorem writeRaw_polls (a : Nat) (v : Byte) (s : State) : (writeRaw a v s).polls = s.polls := rfl
@[simp] theorem writeRaw_txbuf (a : Nat) (v : Byte) (s : State) : (writeRaw a v s).txbuf = s.txbuf := rfl
@[simp] theorem writeRaw_rxbuf (a : Nat) (v : Byte) (s : State) : (writeRaw a v s).rxbuf = s.rxbuf := rfl
@[simp] theorem writeRaw_latch (a : Nat) (v : Byte) (s : State) : (writeRaw a v s).latch = s.latch := rfl
@[simp] theorem writeRaw_cksAcc (a : Nat) (v : Byte) (s : State) : (writeRaw a v s).cksAcc = s.cksAcc := rfl
@[simp] theorem writeRaw_cksEmpty (a : Nat) (v : Byte) (s : State) : (writeRaw a v s).cksEmpty = s.cksEmpty := rfl
@[simp] theorem writeRaw_lrcAcc (a : Nat) (v : Byte) (s : State) : (writeRaw a v s).lrcAcc = s.lrcAcc := rfl
@[simp] theorem writeRaw_raw (a : Nat) (v : Byte) (s : State) : (writeRaw a v s).raw = Memory.put s.raw a [v] := rfl
@[simp] theorem writeRaw_img (a : Nat) (v : Byte) (s : State) : (writeRaw a v s).img = s.img := rfl
@[simp] theorem writeRaw_log (a : Nat) (v : Byte) (s : State) : (writeRaw a v s).log = s.log := rfl
@[simp] theorem writeRaw_cancel (a : Nat) (v : Byte) (s : State) : (writeRaw a v s).cancel = s.cancel := rfl
@[simp] theorem writeRaw_lineRate (a : Nat) (v : Byte) (s : State) : (writeRaw a v s).lineRate = s.lineRate := rfl
@[simp] theorem writeRaw_answers (a : Nat) (v : Byte) (s : State) : (writeRaw a v s).answers = s.answers := rfl
@[simp] theorem writeRaw_draws (a : Nat) (v : Byte) (s : State) : (writeRaw a v s).draws = s.draws := rfl
@[simp] theorem writeRaw_traffic (a : Nat) (v : Byte) (s : State) : (writeRaw a v s).traffic = s.traffic := rfl
@[simp] theorem writeRaw_host (a : Nat) (v : Byte) (s : State) : (writeRaw a v s).host = s.host := rfl
@[simp] theorem writeRaw_readback (a : Nat) (v : Byte) (s : State) : (writeRaw a v s).readback = s.readback := rfl
@[simp] theorem writeRaw_wrote (a : Nat) (v : Byte) (s : State) : (writeRaw a v s).wrote = s.wrote := rfl
@[simp] theorem writeRaw_rawUnwritten (a : Nat) (v : Byte) (s : State) : (writeRaw a v s).rawUnwritten = Ranges.remove s.rawUnwritten a 1 := rfl
@[simp] theorem writeRaw_memEpoch (a : Nat) (v : Byte) (s : State) : (writeRaw a v s).memEpoch = s.memEpoch := rfl
@[simp] theorem writeRaw_blkEpoch (a : Nat) (v : Byte) (s : State) : (writeRaw a v s).blkEpoch = s.blkEpoch := rfl
@[simp] theorem writeRaw_rxEpoch (a : Nat) (v : Byte) (s : State) : (writeRaw a v s).rxEpoch = s.rxEpoch := rfl

-- writeImg
@[simp] theorem writeImg_seq (a : Nat) (v : Word16) (s : State) : (writeImg a v s).seq = s.seq := rfl
@[simp] theorem writeImg_nblk (a : Nat) (v : Word16) (s : State) : (writeImg a v s).nblk = s.nblk := rfl
@[simp] theorem writeImg_blk (a : Nat) (v : Word16) (s : State) : (writeImg a v s).blk = s.blk := rfl
@[simp] theorem writeImg_att (a : Nat) (v : Word16) (s : State) : (writeImg a v s).att = s.att := rfl
@[simp] theorem writeImg_lastCmd (a : Nat) (v : Word16) (s : State) : (writeImg a v s).lastCmd = s.lastCmd := rfl
@[simp] theorem writeImg_status (a : Nat) (v : Word16) (s : State) : (writeImg a v s).status = s.status := rfl
@[simp] theorem writeImg_err (a : Nat) (v : Word16) (s : State) : (writeImg a v s).err = s.err := rfl
@[simp] theorem writeImg_esticky (a : Nat) (v : Word16) (s : State) : (writeImg a v s).esticky = s.esticky := rfl
@[simp] theorem writeImg_argTicks (a : Nat) (v : Word16) (s : State) : (writeImg a v s).argTicks = s.argTicks := rfl
@[simp] theorem writeImg_argFlags (a : Nat) (v : Word16) (s : State) : (writeImg a v s).argFlags = s.argFlags := rfl
@[simp] theorem writeImg_argRate (a : Nat) (v : Word16) (s : State) : (writeImg a v s).argRate = s.argRate := rfl
@[simp] theorem writeImg_argLen (a : Nat) (v : Word16) (s : State) : (writeImg a v s).argLen = s.argLen := rfl
@[simp] theorem writeImg_rxlen (a : Nat) (v : Word16) (s : State) : (writeImg a v s).rxlen = s.rxlen := rfl
@[simp] theorem writeImg_resCks (a : Nat) (v : Word16) (s : State) : (writeImg a v s).resCks = s.resCks := rfl
@[simp] theorem writeImg_fwType (a : Nat) (v : Word16) (s : State) : (writeImg a v s).fwType = s.fwType := rfl
@[simp] theorem writeImg_fwMajor (a : Nat) (v : Word16) (s : State) : (writeImg a v s).fwMajor = s.fwMajor := rfl
@[simp] theorem writeImg_fwMinor (a : Nat) (v : Word16) (s : State) : (writeImg a v s).fwMinor = s.fwMinor := rfl
@[simp] theorem writeImg_substCnt (a : Nat) (v : Word16) (s : State) : (writeImg a v s).substCnt = s.substCnt := rfl
@[simp] theorem writeImg_substMap (a : Nat) (v : Word16) (s : State) : (writeImg a v s).substMap = s.substMap := rfl
@[simp] theorem writeImg_baudCur (a : Nat) (v : Word16) (s : State) : (writeImg a v s).baudCur = s.baudCur := rfl
@[simp] theorem writeImg_baudPrev (a : Nat) (v : Word16) (s : State) : (writeImg a v s).baudPrev = s.baudPrev := rfl
@[simp] theorem writeImg_cfgReadyMax (a : Nat) (v : Word16) (s : State) : (writeImg a v s).cfgReadyMax = s.cfgReadyMax := rfl
@[simp] theorem writeImg_polls (a : Nat) (v : Word16) (s : State) : (writeImg a v s).polls = s.polls := rfl
@[simp] theorem writeImg_txbuf (a : Nat) (v : Word16) (s : State) : (writeImg a v s).txbuf = s.txbuf := rfl
@[simp] theorem writeImg_rxbuf (a : Nat) (v : Word16) (s : State) : (writeImg a v s).rxbuf = s.rxbuf := rfl
@[simp] theorem writeImg_latch (a : Nat) (v : Word16) (s : State) : (writeImg a v s).latch = s.latch := rfl
@[simp] theorem writeImg_cksAcc (a : Nat) (v : Word16) (s : State) : (writeImg a v s).cksAcc = s.cksAcc := rfl
@[simp] theorem writeImg_cksEmpty (a : Nat) (v : Word16) (s : State) : (writeImg a v s).cksEmpty = s.cksEmpty := rfl
@[simp] theorem writeImg_lrcAcc (a : Nat) (v : Word16) (s : State) : (writeImg a v s).lrcAcc = s.lrcAcc := rfl
@[simp] theorem writeImg_raw (a : Nat) (v : Word16) (s : State) : (writeImg a v s).raw = s.raw := rfl
@[simp] theorem writeImg_img (a : Nat) (v : Word16) (s : State) : (writeImg a v s).img = Memory.put s.img a [v] := rfl
@[simp] theorem writeImg_log (a : Nat) (v : Word16) (s : State) : (writeImg a v s).log = s.log := rfl
@[simp] theorem writeImg_cancel (a : Nat) (v : Word16) (s : State) : (writeImg a v s).cancel = s.cancel := rfl
@[simp] theorem writeImg_lineRate (a : Nat) (v : Word16) (s : State) : (writeImg a v s).lineRate = s.lineRate := rfl
@[simp] theorem writeImg_answers (a : Nat) (v : Word16) (s : State) : (writeImg a v s).answers = s.answers := rfl
@[simp] theorem writeImg_draws (a : Nat) (v : Word16) (s : State) : (writeImg a v s).draws = s.draws := rfl
@[simp] theorem writeImg_traffic (a : Nat) (v : Word16) (s : State) : (writeImg a v s).traffic = s.traffic := rfl
@[simp] theorem writeImg_host (a : Nat) (v : Word16) (s : State) : (writeImg a v s).host = s.host := rfl
@[simp] theorem writeImg_readback (a : Nat) (v : Word16) (s : State) : (writeImg a v s).readback = s.readback := rfl
@[simp] theorem writeImg_wrote (a : Nat) (v : Word16) (s : State) : (writeImg a v s).wrote = s.wrote := rfl
@[simp] theorem writeImg_rawUnwritten (a : Nat) (v : Word16) (s : State) : (writeImg a v s).rawUnwritten = s.rawUnwritten := rfl
@[simp] theorem writeImg_memEpoch (a : Nat) (v : Word16) (s : State) : (writeImg a v s).memEpoch = s.memEpoch := rfl
@[simp] theorem writeImg_blkEpoch (a : Nat) (v : Word16) (s : State) : (writeImg a v s).blkEpoch = s.blkEpoch := rfl
@[simp] theorem writeImg_rxEpoch (a : Nat) (v : Word16) (s : State) : (writeImg a v s).rxEpoch = s.rxEpoch := rfl

-- handOver
@[simp] theorem handOver_seq (v : Word32) (s : State) : (handOver v s).seq = s.seq := rfl
@[simp] theorem handOver_nblk (v : Word32) (s : State) : (handOver v s).nblk = s.nblk := rfl
@[simp] theorem handOver_blk (v : Word32) (s : State) : (handOver v s).blk = s.blk := rfl
@[simp] theorem handOver_att (v : Word32) (s : State) : (handOver v s).att = s.att := rfl
@[simp] theorem handOver_lastCmd (v : Word32) (s : State) : (handOver v s).lastCmd = s.lastCmd := rfl
@[simp] theorem handOver_status (v : Word32) (s : State) : (handOver v s).status = s.status := rfl
@[simp] theorem handOver_err (v : Word32) (s : State) : (handOver v s).err = s.err := rfl
@[simp] theorem handOver_esticky (v : Word32) (s : State) : (handOver v s).esticky = s.esticky := rfl
@[simp] theorem handOver_argTicks (v : Word32) (s : State) : (handOver v s).argTicks = s.argTicks := rfl
@[simp] theorem handOver_argFlags (v : Word32) (s : State) : (handOver v s).argFlags = s.argFlags := rfl
@[simp] theorem handOver_argRate (v : Word32) (s : State) : (handOver v s).argRate = s.argRate := rfl
@[simp] theorem handOver_argLen (v : Word32) (s : State) : (handOver v s).argLen = s.argLen := rfl
@[simp] theorem handOver_rxlen (v : Word32) (s : State) : (handOver v s).rxlen = s.rxlen := rfl
@[simp] theorem handOver_resCks (v : Word32) (s : State) : (handOver v s).resCks = s.resCks := rfl
@[simp] theorem handOver_fwType (v : Word32) (s : State) : (handOver v s).fwType = s.fwType := rfl
@[simp] theorem handOver_fwMajor (v : Word32) (s : State) : (handOver v s).fwMajor = s.fwMajor := rfl
@[simp] theorem handOver_fwMinor (v : Word32) (s : State) : (handOver v s).fwMinor = s.fwMinor := rfl
@[simp] theorem handOver_substCnt (v : Word32) (s : State) : (handOver v s).substCnt = s.substCnt := rfl
@[simp] theorem handOver_substMap (v : Word32) (s : State) : (handOver v s).substMap = s.substMap := rfl
@[simp] theorem handOver_baudCur (v : Word32) (s : State) : (handOver v s).baudCur = s.baudCur := rfl
@[simp] theorem handOver_baudPrev (v : Word32) (s : State) : (handOver v s).baudPrev = s.baudPrev := rfl
@[simp] theorem handOver_cfgReadyMax (v : Word32) (s : State) : (handOver v s).cfgReadyMax = s.cfgReadyMax := rfl
@[simp] theorem handOver_polls (v : Word32) (s : State) : (handOver v s).polls = s.polls := rfl
@[simp] theorem handOver_txbuf (v : Word32) (s : State) : (handOver v s).txbuf = s.txbuf := rfl
@[simp] theorem handOver_rxbuf (v : Word32) (s : State) : (handOver v s).rxbuf = s.rxbuf := rfl
@[simp] theorem handOver_latch (v : Word32) (s : State) : (handOver v s).latch = s.latch := rfl
@[simp] theorem handOver_cksAcc (v : Word32) (s : State) : (handOver v s).cksAcc = s.cksAcc := rfl
@[simp] theorem handOver_cksEmpty (v : Word32) (s : State) : (handOver v s).cksEmpty = s.cksEmpty := rfl
@[simp] theorem handOver_lrcAcc (v : Word32) (s : State) : (handOver v s).lrcAcc = s.lrcAcc := rfl
@[simp] theorem handOver_raw (v : Word32) (s : State) : (handOver v s).raw = s.raw := rfl
@[simp] theorem handOver_img (v : Word32) (s : State) : (handOver v s).img = s.img := rfl
@[simp] theorem handOver_log (v : Word32) (s : State) : (handOver v s).log = s.log := rfl
@[simp] theorem handOver_cancel (v : Word32) (s : State) : (handOver v s).cancel = s.cancel := rfl
@[simp] theorem handOver_lineRate (v : Word32) (s : State) : (handOver v s).lineRate = s.lineRate := rfl
@[simp] theorem handOver_answers (v : Word32) (s : State) : (handOver v s).answers = s.answers := rfl
@[simp] theorem handOver_draws (v : Word32) (s : State) : (handOver v s).draws = s.draws := rfl
@[simp] theorem handOver_traffic (v : Word32) (s : State) : (handOver v s).traffic = s.traffic := rfl
@[simp] theorem handOver_host (v : Word32) (s : State) : (handOver v s).host = s.host := rfl
@[simp] theorem handOver_readback (v : Word32) (s : State) : (handOver v s).readback = s.readback ++ [v] := rfl
@[simp] theorem handOver_wrote (v : Word32) (s : State) : (handOver v s).wrote = s.wrote := rfl
@[simp] theorem handOver_rawUnwritten (v : Word32) (s : State) : (handOver v s).rawUnwritten = s.rawUnwritten := rfl
@[simp] theorem handOver_memEpoch (v : Word32) (s : State) : (handOver v s).memEpoch = s.memEpoch := rfl
@[simp] theorem handOver_blkEpoch (v : Word32) (s : State) : (handOver v s).blkEpoch = s.blkEpoch := rfl
@[simp] theorem handOver_rxEpoch (v : Word32) (s : State) : (handOver v s).rxEpoch = s.rxEpoch := rfl

-- cksAbsorbAll, everything but the unit itself
@[simp] theorem cksAbsorbAll_seq (bs : List Byte) (s : State) : (cksAbsorbAll bs s).seq = s.seq := by
  induction bs generalizing s with
  | nil => rfl
  | cons b bs ih => exact ih (cksAbsorb b s)
@[simp] theorem cksAbsorbAll_nblk (bs : List Byte) (s : State) : (cksAbsorbAll bs s).nblk = s.nblk := by
  induction bs generalizing s with
  | nil => rfl
  | cons b bs ih => exact ih (cksAbsorb b s)
@[simp] theorem cksAbsorbAll_blk (bs : List Byte) (s : State) : (cksAbsorbAll bs s).blk = s.blk := by
  induction bs generalizing s with
  | nil => rfl
  | cons b bs ih => exact ih (cksAbsorb b s)
@[simp] theorem cksAbsorbAll_att (bs : List Byte) (s : State) : (cksAbsorbAll bs s).att = s.att := by
  induction bs generalizing s with
  | nil => rfl
  | cons b bs ih => exact ih (cksAbsorb b s)
@[simp] theorem cksAbsorbAll_lastCmd (bs : List Byte) (s : State) : (cksAbsorbAll bs s).lastCmd = s.lastCmd := by
  induction bs generalizing s with
  | nil => rfl
  | cons b bs ih => exact ih (cksAbsorb b s)
@[simp] theorem cksAbsorbAll_status (bs : List Byte) (s : State) : (cksAbsorbAll bs s).status = s.status := by
  induction bs generalizing s with
  | nil => rfl
  | cons b bs ih => exact ih (cksAbsorb b s)
@[simp] theorem cksAbsorbAll_err (bs : List Byte) (s : State) : (cksAbsorbAll bs s).err = s.err := by
  induction bs generalizing s with
  | nil => rfl
  | cons b bs ih => exact ih (cksAbsorb b s)
@[simp] theorem cksAbsorbAll_esticky (bs : List Byte) (s : State) : (cksAbsorbAll bs s).esticky = s.esticky := by
  induction bs generalizing s with
  | nil => rfl
  | cons b bs ih => exact ih (cksAbsorb b s)
@[simp] theorem cksAbsorbAll_argTicks (bs : List Byte) (s : State) : (cksAbsorbAll bs s).argTicks = s.argTicks := by
  induction bs generalizing s with
  | nil => rfl
  | cons b bs ih => exact ih (cksAbsorb b s)
@[simp] theorem cksAbsorbAll_argFlags (bs : List Byte) (s : State) : (cksAbsorbAll bs s).argFlags = s.argFlags := by
  induction bs generalizing s with
  | nil => rfl
  | cons b bs ih => exact ih (cksAbsorb b s)
@[simp] theorem cksAbsorbAll_argRate (bs : List Byte) (s : State) : (cksAbsorbAll bs s).argRate = s.argRate := by
  induction bs generalizing s with
  | nil => rfl
  | cons b bs ih => exact ih (cksAbsorb b s)
@[simp] theorem cksAbsorbAll_argLen (bs : List Byte) (s : State) : (cksAbsorbAll bs s).argLen = s.argLen := by
  induction bs generalizing s with
  | nil => rfl
  | cons b bs ih => exact ih (cksAbsorb b s)
@[simp] theorem cksAbsorbAll_rxlen (bs : List Byte) (s : State) : (cksAbsorbAll bs s).rxlen = s.rxlen := by
  induction bs generalizing s with
  | nil => rfl
  | cons b bs ih => exact ih (cksAbsorb b s)
@[simp] theorem cksAbsorbAll_resCks (bs : List Byte) (s : State) : (cksAbsorbAll bs s).resCks = s.resCks := by
  induction bs generalizing s with
  | nil => rfl
  | cons b bs ih => exact ih (cksAbsorb b s)
@[simp] theorem cksAbsorbAll_fwType (bs : List Byte) (s : State) : (cksAbsorbAll bs s).fwType = s.fwType := by
  induction bs generalizing s with
  | nil => rfl
  | cons b bs ih => exact ih (cksAbsorb b s)
@[simp] theorem cksAbsorbAll_fwMajor (bs : List Byte) (s : State) : (cksAbsorbAll bs s).fwMajor = s.fwMajor := by
  induction bs generalizing s with
  | nil => rfl
  | cons b bs ih => exact ih (cksAbsorb b s)
@[simp] theorem cksAbsorbAll_fwMinor (bs : List Byte) (s : State) : (cksAbsorbAll bs s).fwMinor = s.fwMinor := by
  induction bs generalizing s with
  | nil => rfl
  | cons b bs ih => exact ih (cksAbsorb b s)
@[simp] theorem cksAbsorbAll_substCnt (bs : List Byte) (s : State) : (cksAbsorbAll bs s).substCnt = s.substCnt := by
  induction bs generalizing s with
  | nil => rfl
  | cons b bs ih => exact ih (cksAbsorb b s)
@[simp] theorem cksAbsorbAll_substMap (bs : List Byte) (s : State) : (cksAbsorbAll bs s).substMap = s.substMap := by
  induction bs generalizing s with
  | nil => rfl
  | cons b bs ih => exact ih (cksAbsorb b s)
@[simp] theorem cksAbsorbAll_baudCur (bs : List Byte) (s : State) : (cksAbsorbAll bs s).baudCur = s.baudCur := by
  induction bs generalizing s with
  | nil => rfl
  | cons b bs ih => exact ih (cksAbsorb b s)
@[simp] theorem cksAbsorbAll_baudPrev (bs : List Byte) (s : State) : (cksAbsorbAll bs s).baudPrev = s.baudPrev := by
  induction bs generalizing s with
  | nil => rfl
  | cons b bs ih => exact ih (cksAbsorb b s)
@[simp] theorem cksAbsorbAll_cfgReadyMax (bs : List Byte) (s : State) : (cksAbsorbAll bs s).cfgReadyMax = s.cfgReadyMax := by
  induction bs generalizing s with
  | nil => rfl
  | cons b bs ih => exact ih (cksAbsorb b s)
@[simp] theorem cksAbsorbAll_polls (bs : List Byte) (s : State) : (cksAbsorbAll bs s).polls = s.polls := by
  induction bs generalizing s with
  | nil => rfl
  | cons b bs ih => exact ih (cksAbsorb b s)
@[simp] theorem cksAbsorbAll_txbuf (bs : List Byte) (s : State) : (cksAbsorbAll bs s).txbuf = s.txbuf := by
  induction bs generalizing s with
  | nil => rfl
  | cons b bs ih => exact ih (cksAbsorb b s)
@[simp] theorem cksAbsorbAll_rxbuf (bs : List Byte) (s : State) : (cksAbsorbAll bs s).rxbuf = s.rxbuf := by
  induction bs generalizing s with
  | nil => rfl
  | cons b bs ih => exact ih (cksAbsorb b s)
@[simp] theorem cksAbsorbAll_latch (bs : List Byte) (s : State) : (cksAbsorbAll bs s).latch = s.latch := by
  induction bs generalizing s with
  | nil => rfl
  | cons b bs ih => exact ih (cksAbsorb b s)
@[simp] theorem cksAbsorbAll_lrcAcc (bs : List Byte) (s : State) : (cksAbsorbAll bs s).lrcAcc = s.lrcAcc := by
  induction bs generalizing s with
  | nil => rfl
  | cons b bs ih => exact ih (cksAbsorb b s)
@[simp] theorem cksAbsorbAll_raw (bs : List Byte) (s : State) : (cksAbsorbAll bs s).raw = s.raw := by
  induction bs generalizing s with
  | nil => rfl
  | cons b bs ih => exact ih (cksAbsorb b s)
@[simp] theorem cksAbsorbAll_img (bs : List Byte) (s : State) : (cksAbsorbAll bs s).img = s.img := by
  induction bs generalizing s with
  | nil => rfl
  | cons b bs ih => exact ih (cksAbsorb b s)
@[simp] theorem cksAbsorbAll_log (bs : List Byte) (s : State) : (cksAbsorbAll bs s).log = s.log := by
  induction bs generalizing s with
  | nil => rfl
  | cons b bs ih => exact ih (cksAbsorb b s)
@[simp] theorem cksAbsorbAll_cancel (bs : List Byte) (s : State) : (cksAbsorbAll bs s).cancel = s.cancel := by
  induction bs generalizing s with
  | nil => rfl
  | cons b bs ih => exact ih (cksAbsorb b s)
@[simp] theorem cksAbsorbAll_lineRate (bs : List Byte) (s : State) : (cksAbsorbAll bs s).lineRate = s.lineRate := by
  induction bs generalizing s with
  | nil => rfl
  | cons b bs ih => exact ih (cksAbsorb b s)
@[simp] theorem cksAbsorbAll_answers (bs : List Byte) (s : State) : (cksAbsorbAll bs s).answers = s.answers := by
  induction bs generalizing s with
  | nil => rfl
  | cons b bs ih => exact ih (cksAbsorb b s)
@[simp] theorem cksAbsorbAll_draws (bs : List Byte) (s : State) : (cksAbsorbAll bs s).draws = s.draws := by
  induction bs generalizing s with
  | nil => rfl
  | cons b bs ih => exact ih (cksAbsorb b s)
@[simp] theorem cksAbsorbAll_traffic (bs : List Byte) (s : State) : (cksAbsorbAll bs s).traffic = s.traffic := by
  induction bs generalizing s with
  | nil => rfl
  | cons b bs ih => exact ih (cksAbsorb b s)
@[simp] theorem cksAbsorbAll_host (bs : List Byte) (s : State) : (cksAbsorbAll bs s).host = s.host := by
  induction bs generalizing s with
  | nil => rfl
  | cons b bs ih => exact ih (cksAbsorb b s)
@[simp] theorem cksAbsorbAll_readback (bs : List Byte) (s : State) : (cksAbsorbAll bs s).readback = s.readback := by
  induction bs generalizing s with
  | nil => rfl
  | cons b bs ih => exact ih (cksAbsorb b s)
@[simp] theorem cksAbsorbAll_wrote (bs : List Byte) (s : State) : (cksAbsorbAll bs s).wrote = s.wrote := by
  induction bs generalizing s with
  | nil => rfl
  | cons b bs ih => exact ih (cksAbsorb b s)
@[simp] theorem cksAbsorbAll_rawUnwritten (bs : List Byte) (s : State) : (cksAbsorbAll bs s).rawUnwritten = s.rawUnwritten := by
  induction bs generalizing s with
  | nil => rfl
  | cons b bs ih => exact ih (cksAbsorb b s)
@[simp] theorem cksAbsorbAll_memEpoch (bs : List Byte) (s : State) : (cksAbsorbAll bs s).memEpoch = s.memEpoch := by
  induction bs generalizing s with
  | nil => rfl
  | cons b bs ih => exact ih (cksAbsorb b s)
@[simp] theorem cksAbsorbAll_blkEpoch (bs : List Byte) (s : State) : (cksAbsorbAll bs s).blkEpoch = s.blkEpoch := by
  induction bs generalizing s with
  | nil => rfl
  | cons b bs ih => exact ih (cksAbsorb b s)
@[simp] theorem cksAbsorbAll_rxEpoch (bs : List Byte) (s : State) : (cksAbsorbAll bs s).rxEpoch = s.rxEpoch := by
  induction bs generalizing s with
  | nil => rfl
  | cons b bs ih => exact ih (cksAbsorb b s)

-- emitPrepare
@[simp] theorem emitPrepare_seq (c : Byte) (args : List Byte) (s : State) : (emitPrepare c args s).seq = s.seq := by simp [emitPrepare]
@[simp] theorem emitPrepare_nblk (c : Byte) (args : List Byte) (s : State) : (emitPrepare c args s).nblk = s.nblk := by simp [emitPrepare]
@[simp] theorem emitPrepare_blk (c : Byte) (args : List Byte) (s : State) : (emitPrepare c args s).blk = s.blk := by simp [emitPrepare]
@[simp] theorem emitPrepare_att (c : Byte) (args : List Byte) (s : State) : (emitPrepare c args s).att = s.att := by simp [emitPrepare]
@[simp] theorem emitPrepare_lastCmd (c : Byte) (args : List Byte) (s : State) : (emitPrepare c args s).lastCmd = c := by simp [emitPrepare]
@[simp] theorem emitPrepare_status (c : Byte) (args : List Byte) (s : State) : (emitPrepare c args s).status = s.status := by simp [emitPrepare]
@[simp] theorem emitPrepare_err (c : Byte) (args : List Byte) (s : State) : (emitPrepare c args s).err = s.err := by simp [emitPrepare]
@[simp] theorem emitPrepare_esticky (c : Byte) (args : List Byte) (s : State) : (emitPrepare c args s).esticky = s.esticky := by simp [emitPrepare]
@[simp] theorem emitPrepare_argTicks (c : Byte) (args : List Byte) (s : State) : (emitPrepare c args s).argTicks = s.argTicks := by simp [emitPrepare]
@[simp] theorem emitPrepare_argFlags (c : Byte) (args : List Byte) (s : State) : (emitPrepare c args s).argFlags = s.argFlags := by simp [emitPrepare]
@[simp] theorem emitPrepare_argRate (c : Byte) (args : List Byte) (s : State) : (emitPrepare c args s).argRate = s.argRate := by simp [emitPrepare]
@[simp] theorem emitPrepare_argLen (c : Byte) (args : List Byte) (s : State) : (emitPrepare c args s).argLen = s.argLen := by simp [emitPrepare]
@[simp] theorem emitPrepare_rxlen (c : Byte) (args : List Byte) (s : State) : (emitPrepare c args s).rxlen = s.rxlen := by simp [emitPrepare]
@[simp] theorem emitPrepare_resCks (c : Byte) (args : List Byte) (s : State) : (emitPrepare c args s).resCks = s.resCks := by simp [emitPrepare]
@[simp] theorem emitPrepare_fwType (c : Byte) (args : List Byte) (s : State) : (emitPrepare c args s).fwType = s.fwType := by simp [emitPrepare]
@[simp] theorem emitPrepare_fwMajor (c : Byte) (args : List Byte) (s : State) : (emitPrepare c args s).fwMajor = s.fwMajor := by simp [emitPrepare]
@[simp] theorem emitPrepare_fwMinor (c : Byte) (args : List Byte) (s : State) : (emitPrepare c args s).fwMinor = s.fwMinor := by simp [emitPrepare]
@[simp] theorem emitPrepare_substCnt (c : Byte) (args : List Byte) (s : State) : (emitPrepare c args s).substCnt = s.substCnt := by simp [emitPrepare]
@[simp] theorem emitPrepare_substMap (c : Byte) (args : List Byte) (s : State) : (emitPrepare c args s).substMap = s.substMap := by simp [emitPrepare]
@[simp] theorem emitPrepare_baudCur (c : Byte) (args : List Byte) (s : State) : (emitPrepare c args s).baudCur = s.baudCur := by simp [emitPrepare]
@[simp] theorem emitPrepare_baudPrev (c : Byte) (args : List Byte) (s : State) : (emitPrepare c args s).baudPrev = s.baudPrev := by simp [emitPrepare]
@[simp] theorem emitPrepare_cfgReadyMax (c : Byte) (args : List Byte) (s : State) : (emitPrepare c args s).cfgReadyMax = s.cfgReadyMax := by simp [emitPrepare]
@[simp] theorem emitPrepare_polls (c : Byte) (args : List Byte) (s : State) : (emitPrepare c args s).polls = s.polls := by simp [emitPrepare]
@[simp] theorem emitPrepare_txbuf (c : Byte) (args : List Byte) (s : State) : (emitPrepare c args s).txbuf = s.txbuf := by simp [emitPrepare]
@[simp] theorem emitPrepare_rxbuf (c : Byte) (args : List Byte) (s : State) : (emitPrepare c args s).rxbuf = s.rxbuf := by simp [emitPrepare]
@[simp] theorem emitPrepare_latch (c : Byte) (args : List Byte) (s : State) : (emitPrepare c args s).latch = s.latch := by simp [emitPrepare]
@[simp] theorem emitPrepare_lrcAcc (c : Byte) (args : List Byte) (s : State) : (emitPrepare c args s).lrcAcc = s.lrcAcc := by simp [emitPrepare]
@[simp] theorem emitPrepare_raw (c : Byte) (args : List Byte) (s : State) : (emitPrepare c args s).raw = s.raw := by simp [emitPrepare]
@[simp] theorem emitPrepare_img (c : Byte) (args : List Byte) (s : State) : (emitPrepare c args s).img = s.img := by simp [emitPrepare]
@[simp] theorem emitPrepare_log (c : Byte) (args : List Byte) (s : State) : (emitPrepare c args s).log = s.log := by simp [emitPrepare]
@[simp] theorem emitPrepare_cancel (c : Byte) (args : List Byte) (s : State) : (emitPrepare c args s).cancel = s.cancel := by simp [emitPrepare]
@[simp] theorem emitPrepare_lineRate (c : Byte) (args : List Byte) (s : State) : (emitPrepare c args s).lineRate = s.lineRate := by simp [emitPrepare]
@[simp] theorem emitPrepare_answers (c : Byte) (args : List Byte) (s : State) : (emitPrepare c args s).answers = s.answers := by simp [emitPrepare]
@[simp] theorem emitPrepare_draws (c : Byte) (args : List Byte) (s : State) : (emitPrepare c args s).draws = s.draws := by simp [emitPrepare]
@[simp] theorem emitPrepare_traffic (c : Byte) (args : List Byte) (s : State) : (emitPrepare c args s).traffic = s.traffic := by simp [emitPrepare]
@[simp] theorem emitPrepare_host (c : Byte) (args : List Byte) (s : State) : (emitPrepare c args s).host = s.host := by simp [emitPrepare]
@[simp] theorem emitPrepare_readback (c : Byte) (args : List Byte) (s : State) : (emitPrepare c args s).readback = s.readback := by simp [emitPrepare]
@[simp] theorem emitPrepare_wrote (c : Byte) (args : List Byte) (s : State) : (emitPrepare c args s).wrote = s.wrote := by simp [emitPrepare]
@[simp] theorem emitPrepare_rawUnwritten (c : Byte) (args : List Byte) (s : State) : (emitPrepare c args s).rawUnwritten = s.rawUnwritten := by simp [emitPrepare]
@[simp] theorem emitPrepare_memEpoch (c : Byte) (args : List Byte) (s : State) : (emitPrepare c args s).memEpoch = s.memEpoch := by simp [emitPrepare]
@[simp] theorem emitPrepare_blkEpoch (c : Byte) (args : List Byte) (s : State) : (emitPrepare c args s).blkEpoch = s.blkEpoch := by simp [emitPrepare]
@[simp] theorem emitPrepare_rxEpoch (c : Byte) (args : List Byte) (s : State) : (emitPrepare c args s).rxEpoch = s.rxEpoch := by simp [emitPrepare]

-- emitted
@[simp] theorem emitted_seq (c : Byte) (args : List Byte) (s : State) : (emitted c args s).seq = s.seq := by simp [emitted]
@[simp] theorem emitted_nblk (c : Byte) (args : List Byte) (s : State) : (emitted c args s).nblk = s.nblk := by simp [emitted]
@[simp] theorem emitted_blk (c : Byte) (args : List Byte) (s : State) : (emitted c args s).blk = s.blk := by simp [emitted]
@[simp] theorem emitted_att (c : Byte) (args : List Byte) (s : State) : (emitted c args s).att = s.att := by simp [emitted]
@[simp] theorem emitted_lastCmd (c : Byte) (args : List Byte) (s : State) : (emitted c args s).lastCmd = c := by simp [emitted]
@[simp] theorem emitted_status (c : Byte) (args : List Byte) (s : State) : (emitted c args s).status = s.status := by simp [emitted]
@[simp] theorem emitted_err (c : Byte) (args : List Byte) (s : State) : (emitted c args s).err = s.err := by simp [emitted]
@[simp] theorem emitted_esticky (c : Byte) (args : List Byte) (s : State) : (emitted c args s).esticky = s.esticky := by simp [emitted]
@[simp] theorem emitted_argTicks (c : Byte) (args : List Byte) (s : State) : (emitted c args s).argTicks = s.argTicks := by simp [emitted]
@[simp] theorem emitted_argFlags (c : Byte) (args : List Byte) (s : State) : (emitted c args s).argFlags = s.argFlags := by simp [emitted]
@[simp] theorem emitted_argRate (c : Byte) (args : List Byte) (s : State) : (emitted c args s).argRate = s.argRate := by simp [emitted]
@[simp] theorem emitted_argLen (c : Byte) (args : List Byte) (s : State) : (emitted c args s).argLen = s.argLen := by simp [emitted]
@[simp] theorem emitted_rxlen (c : Byte) (args : List Byte) (s : State) : (emitted c args s).rxlen = s.rxlen := by simp [emitted]
@[simp] theorem emitted_resCks (c : Byte) (args : List Byte) (s : State) : (emitted c args s).resCks = s.resCks := by simp [emitted]
@[simp] theorem emitted_fwType (c : Byte) (args : List Byte) (s : State) : (emitted c args s).fwType = s.fwType := by simp [emitted]
@[simp] theorem emitted_fwMajor (c : Byte) (args : List Byte) (s : State) : (emitted c args s).fwMajor = s.fwMajor := by simp [emitted]
@[simp] theorem emitted_fwMinor (c : Byte) (args : List Byte) (s : State) : (emitted c args s).fwMinor = s.fwMinor := by simp [emitted]
@[simp] theorem emitted_substCnt (c : Byte) (args : List Byte) (s : State) : (emitted c args s).substCnt = s.substCnt := by simp [emitted]
@[simp] theorem emitted_substMap (c : Byte) (args : List Byte) (s : State) : (emitted c args s).substMap = s.substMap := by simp [emitted]
@[simp] theorem emitted_baudCur (c : Byte) (args : List Byte) (s : State) : (emitted c args s).baudCur = s.baudCur := by simp [emitted]
@[simp] theorem emitted_baudPrev (c : Byte) (args : List Byte) (s : State) : (emitted c args s).baudPrev = s.baudPrev := by simp [emitted]
@[simp] theorem emitted_cfgReadyMax (c : Byte) (args : List Byte) (s : State) : (emitted c args s).cfgReadyMax = s.cfgReadyMax := by simp [emitted]
@[simp] theorem emitted_polls (c : Byte) (args : List Byte) (s : State) : (emitted c args s).polls = s.polls := by simp [emitted]
@[simp] theorem emitted_txbuf (c : Byte) (args : List Byte) (s : State) : (emitted c args s).txbuf = s.txbuf := by simp [emitted]
@[simp] theorem emitted_rxbuf (c : Byte) (args : List Byte) (s : State) : (emitted c args s).rxbuf = s.rxbuf := by simp [emitted]
@[simp] theorem emitted_latch (c : Byte) (args : List Byte) (s : State) : (emitted c args s).latch = s.latch := by simp [emitted]
@[simp] theorem emitted_lrcAcc (c : Byte) (args : List Byte) (s : State) : (emitted c args s).lrcAcc = s.lrcAcc := by simp [emitted]
@[simp] theorem emitted_raw (c : Byte) (args : List Byte) (s : State) : (emitted c args s).raw = s.raw := by simp [emitted]
@[simp] theorem emitted_img (c : Byte) (args : List Byte) (s : State) : (emitted c args s).img = s.img := by simp [emitted]
@[simp] theorem emitted_log (c : Byte) (args : List Byte) (s : State) : (emitted c args s).log = s.log := by simp [emitted]
@[simp] theorem emitted_cancel (c : Byte) (args : List Byte) (s : State) : (emitted c args s).cancel = s.cancel := by simp [emitted]
@[simp] theorem emitted_lineRate (c : Byte) (args : List Byte) (s : State) : (emitted c args s).lineRate = s.lineRate := by simp [emitted]
@[simp] theorem emitted_host (c : Byte) (args : List Byte) (s : State) : (emitted c args s).host = s.host := by simp [emitted]
@[simp] theorem emitted_readback (c : Byte) (args : List Byte) (s : State) : (emitted c args s).readback = s.readback := by simp [emitted]
@[simp] theorem emitted_wrote (c : Byte) (args : List Byte) (s : State) : (emitted c args s).wrote = s.wrote := by simp [emitted]
@[simp] theorem emitted_rawUnwritten (c : Byte) (args : List Byte) (s : State) : (emitted c args s).rawUnwritten = s.rawUnwritten := by simp [emitted]
@[simp] theorem emitted_memEpoch (c : Byte) (args : List Byte) (s : State) : (emitted c args s).memEpoch = s.memEpoch := by simp [emitted]
@[simp] theorem emitted_blkEpoch (c : Byte) (args : List Byte) (s : State) : (emitted c args s).blkEpoch = s.blkEpoch := by simp [emitted]
@[simp] theorem emitted_rxEpoch (c : Byte) (args : List Byte) (s : State) : (emitted c args s).rxEpoch = s.rxEpoch := by simp [emitted]

end Sys2Proof.Machine
end

