-- ==== Sys2Proof/Laws/Ops.lean ====
section
/-! SUPPORT. What each shared operation can do, said once: `emit`, `runOperation`, `whenDue`, the memory port, and the
environment's answer, which no bookkeeping of the engine changes. -/

namespace Sys2Proof.Machine

-- The environment's next answer depends on the answers left and the draws made, on nothing else

theorem nextAnswer_congr {s t : State} (ha : t.answers = s.answers) (hd : t.draws = s.draws) :
    nextAnswer t = nextAnswer s := by
  simp only [nextAnswer, ha, hd]

theorem linkOk_congr {s t : State} (ha : t.answers = s.answers) (hd : t.draws = s.draws) : linkOk t = linkOk s := by
  rw [linkOk, linkOk, nextAnswer_congr ha hd]

theorem readLink_congr {s t : State} (n : Nat) (ha : t.answers = s.answers) (hd : t.draws = s.draws) :
    readLink n t = readLink n s := by
  rw [readLink, readLink, nextAnswer_congr ha hd]

@[simp] theorem linkOk_emitPrepare (c : Byte) (args : List Byte) (s : State) :
    linkOk (emitPrepare c args s) = linkOk s := linkOk_congr (by simp) (by simp)

@[simp] theorem linkOk_popHost (s : State) : linkOk (popHost s) = linkOk s := rfl

@[simp] theorem readLink_popHost (n : Nat) (s : State) : readLink n (popHost s) = readLink n s := rfl

/-- A scripted answer is the answer. -/
theorem nextAnswer_cons {s : State} {a : Answer} {rest : List Answer} (h : s.answers = a :: rest) :
    nextAnswer s = a := by
  simp only [nextAnswer, h]

/-- A read returns no more bytes than it asks for (20_memory R46). -/
theorem readLink_length_le (n : Nat) (s : State) : (readLink n s).length ≤ n := by
  simp [readLink]

theorem rxStore_length (e : Nat) (r : List Byte) : (rxStore e r).length = Config.rxBufBytes := by
  simp [rxStore]

-- Emit (41_dispatcher R110)

@[simp] theorem linkFatal_eq (s : State) : linkFatal s = raise .transportFatal 0#7 0#3 s := rfl

@[simp] theorem baudFatal_eq (s : State) : baudFatal s = raise .transportFatal 0#7 0#3 { s with lineRate := none } := rfl

@[simp] theorem blockFatal_eq (s : State) : blockFatal s = raise .transportFatal s.blk s.att (loseBlock s) := rfl

/-- Everything `Emit` can do: the frame is written and `next` goes on, or it is not and `fail` ends the operation. -/
theorem emit_cases (c : Byte) (args : List Byte) (next fail : State → State) (s : State) :
    (linkOk s = true ∧ emit c args next fail s = next (emitted c args s)) ∨
    (linkOk s = false ∧ emit c args next fail s = fail (emitted c args s)) := by
  cases h : linkOk s <;> simp [emit, h]

theorem emit_ok {s : State} (h : linkOk s = true) (c : Byte) (args : List Byte) (next fail : State → State) :
    emit c args next fail s = next (emitted c args s) := if_pos h

theorem emit_fails {s : State} (h : linkOk s = false) (c : Byte) (args : List Byte) (next fail : State → State) :
    emit c args next fail s = fail (emitted c args s) := by
  simp [emit, h]

@[simp] theorem cksEmpty_cksAbsorbAll_cons (b : Byte) (bs : List Byte) (s : State) :
    (cksAbsorbAll (b :: bs) s).cksEmpty = false := by
  induction bs generalizing b s with
  | nil => rfl
  | cons d bs ih => exact ih d (cksAbsorb b s)

@[simp] theorem emitted_cksEmpty (c : Byte) (args : List Byte) (s : State) :
    (emitted c args s).cksEmpty = false := cksEmpty_cksAbsorbAll_cons c args (cksClear s)

@[simp] theorem emitted_answers (c : Byte) (args : List Byte) (s : State) :
    (emitted c args s).answers = s.answers.tail := by simp [emitted]

@[simp] theorem emitted_draws (c : Byte) (args : List Byte) (s : State) :
    (emitted c args s).draws = if s.answers.isEmpty then s.draws + 1 else s.draws := by simp [emitted]

@[simp] theorem emitted_traffic (c : Byte) (args : List Byte) (s : State) :
    (emitted c args s).traffic = s.traffic ++ [.write (emitFrame c args s) (linkOk s)] := by simp [emitted]

-- Operations (10_state R11, R14)

/-- Everything an operation's meaning can answer with a next state. -/
theorem runOperation_next {op : Byte} {first : Seq} {advance : State → Option State} {s t : State}
    (h : runOperation op first advance s = .next t) :
    (s.status.fatal = true ∧ t = s) ∨
    (s.status.fatal = false ∧ s.status.busy = true ∧ s.latch.op = op ∧ advance s = some t) ∨
    (s.status.fatal = false ∧ s.status.busy = true ∧ s.latch.op ≠ op ∧ t = overrun s) ∨
    (s.status.fatal = false ∧ s.status.busy = false ∧ operandsWritten op s = true ∧ t = start op first s) := by
  unfold runOperation at h
  split at h
  · cases h; simp_all
  · split at h
    · split at h
      · split at h
        · cases h; simp_all
        · cases h
      · cases h; simp_all
    · split at h
      · cases h; simp_all
      · cases h

/-- What an idle engine does with an operation: it starts it, if its operands are written. -/
theorem runOperation_idle {s : State} (hb : s.status.busy = false) (hf : s.status.fatal = false) (op : Byte)
    (first : Seq) (advance : State → Option State) :
    runOperation op first advance s =
      if operandsWritten op s then .next (start op first s) else .refused .operandNeverWritten := by
  simp [runOperation, hb, hf]

/-- A running operation takes its transition. -/
theorem runOperation_runs {s t : State} {op : Byte} (hb : s.status.busy = true) (hf : s.status.fatal = false)
    (ho : s.latch.op = op) (first : Seq) {advance : State → Option State} (ha : advance s = some t) :
    runOperation op first advance s = .next t := by
  simp [runOperation, hb, hf, ho, ha]

/-- `runsAt` as a statement. -/
theorem runsAt_iff (op : Byte) (q : Seq) (s : State) :
    runsAt op q s = true ↔ s.status.busy = true ∧ s.status.fatal = false ∧ s.latch.op = op ∧ s.seq = q := by
  simp [runsAt, and_assoc]

-- Frames (30_encoding R71)

/-- Everything a frame's meaning can answer. -/
theorem whenDue_cases (d : Bool) (f : State → State) (s : State) :
    (d = true ∧ whenDue d f s = .next (f s)) ∨ (d = false ∧ whenDue d f s = .refused .frameNotDue) := by
  cases d <;> simp [whenDue]

-- The blocks of READIMG (44_transfer R144, R147)

@[simp] theorem lostBytes_length (epoch base : Nat) : (lostBytes epoch base).length = 8192 := by
  simp [lostBytes, blockBytes]

/-- A byte of `RAW` after a block is stored: inside the block the byte stored there, outside what was there. -/
theorem rawByte_storeBlock {bytes : List Byte} (h : bytes.length = 8192) (s : State) (a : Nat) :
    rawByte a (storeBlock bytes s) =
      if 8192 * s.blk.toNat ≤ a ∧ a < 8192 * s.blk.toNat + 8192 then bytes.getD (a - 8192 * s.blk.toNat) 0#8
      else rawByte a s := by
  have hb : blockBase s = 8192 * s.blk.toNat := rfl
  rw [rawByte, storeBlock_raw, storeBlock_memEpoch, Memory.lookup_put, h, hb, rawByte]
  split
  · rename_i ha
    rw [List.getElem?_eq_getElem (by omega), Option.getD_some, List.getD_eq_getElem _ _ (by omega)]
  · rfl

/-- A block that is lost leaves every byte outside it alone. -/
theorem rawByte_loseBlock {s : State} {a : Nat} (h : ¬ (8192 * s.blk.toNat ≤ a ∧ a < 8192 * s.blk.toNat + 8192)) :
    rawByte a (loseBlock s) = rawByte a s := by
  have := rawByte_storeBlock (lostBytes_length (s.blkEpoch + 1) (blockBase s)) s a
  rw [if_neg h] at this
  exact this

-- The host port (20_memory R41)

/-- Everything the memory port can answer with a next state. -/
theorem memoryPort_next {inside : Bool} {f : Fault} {access : State → State} {s t : State}
    (h : memoryPort inside f access s = .next t) : s.status.busy = false ∧ inside = true ∧ t = access s := by
  unfold memoryPort at h
  split at h
  · cases h
  · split at h
    · cases h; simp_all
    · cases h

/-- A host write of a register changes one operand register, one byte of `TXBUF`, or the sticky bit of an overrun; an
operand counts as written then. -/
theorem regWrite_next {no : Nat} {v : Word32} {s t : State} (h : regWrite no v s = .next t) :
    (no = 0 ∧ t = cmdIgnored s) ∨
    (no = 4 ∧ t = { s with argTicks := v.setWidth 24, wrote := { s.wrote with ticks := true } }) ∨
    (no = 5 ∧ t = { s with argFlags := v.setWidth 3, wrote := { s.wrote with flags := true } }) ∨
    (no = 6 ∧ t = { s with argRate := v, wrote := { s.wrote with rate := true } }) ∨
    (no = 7 ∧ t = { s with argLen := v.setWidth 16, wrote := { s.wrote with len := true } }) ∨
    (no = 16 ∧ t = { s with cfgReadyMax := v }) ∨
    (32 ≤ no ∧ no < 48 ∧ s.status.busy = false ∧ t = writeTx (no - 32) (v.setWidth 8) s) ∨
    t = s := by
  unfold regWrite at h
  split at h
  case h_7 n =>
    split at h
    · rename_i hn
      split at h
      · cases h
      · cases h; simp_all [Config.txBufBytes]
    · split at h
      · cases h; simp
      · cases h
  all_goals (cases h; simp)

end Sys2Proof.Machine
end

