-- ==== Sys2Proof/Laws/PerInstr.lean ====
section
/-! SUPPORT. Statements made per instruction. `EncodedForm`: the bytes of every instruction are as many as its format has
(30_encoding R61 to R64, R66, R81). -/

namespace Sys2Proof.Laws.EncodedForm

/-- The bytes of an instruction's format: HOST 1, W2 2, W3 3, W5 5, W7 7. -/
def formatBytes : Instr → Nat
  | .cksum | .send | .setbaud | .startexp | .readimg | .decodePix => 1
  | .ping | .shopen | .shclose | .shdeen | .abortexp | .fwquery | .heater | .chop => 1
  | .frameE | .frameO | .frameC | .frameK | .frameA | .frameV | .frameKconf | .frameX | .frameR | .frameS => 2
  | .frameG0 | .frameG1 | .frameU0 | .frameU1 => 3
  | .frameB0 | .frameB1 | .frameB2 | .frameB3 | .frameB4 | .frameB5 | .frameB6 => 3
  | .frameTest => 5
  | .frameT _ _ => 7

/-- The encoding of `i` has its format's length. -/
def Statement (i : Instr) : Prop := (encode i).length = formatBytes i

theorem cksum : Statement .cksum := rfl
theorem send : Statement .send := rfl
theorem setbaud : Statement .setbaud := rfl
theorem startexp : Statement .startexp := rfl
theorem readimg : Statement .readimg := rfl
theorem decodePix : Statement .decodePix := rfl
theorem ping : Statement .ping := rfl
theorem shopen : Statement .shopen := rfl
theorem shclose : Statement .shclose := rfl
theorem shdeen : Statement .shdeen := rfl
theorem abortexp : Statement .abortexp := rfl
theorem fwquery : Statement .fwquery := rfl
theorem heater : Statement .heater := rfl
theorem chop : Statement .chop := rfl
theorem frameE : Statement .frameE := rfl
theorem frameO : Statement .frameO := rfl
theorem frameC : Statement .frameC := rfl
theorem frameK : Statement .frameK := rfl
theorem frameA : Statement .frameA := rfl
theorem frameV : Statement .frameV := rfl
theorem frameG0 : Statement .frameG0 := rfl
theorem frameG1 : Statement .frameG1 := rfl
theorem frameU0 : Statement .frameU0 := rfl
theorem frameU1 : Statement .frameU1 := rfl
theorem frameB0 : Statement .frameB0 := rfl
theorem frameB1 : Statement .frameB1 := rfl
theorem frameB2 : Statement .frameB2 := rfl
theorem frameB3 : Statement .frameB3 := rfl
theorem frameB4 : Statement .frameB4 := rfl
theorem frameB5 : Statement .frameB5 := rfl
theorem frameB6 : Statement .frameB6 := rfl
theorem frameTest : Statement .frameTest := rfl
theorem frameKconf : Statement .frameKconf := rfl
theorem frameT (ticks : Nat) (light : Bool) : Statement (.frameT ticks light) := rfl
theorem frameX : Statement .frameX := rfl
theorem frameR : Statement .frameR := rfl
theorem frameS : Statement .frameS := rfl

end Sys2Proof.Laws.EncodedForm
end

