-- ==== Sys2Proof/Laws/Step.lean ====
section
/-! SUPPORT. What one step can do, said once: which bytes it fetches, what it runs, and every transition of the
sequencer that a meaning can take. -/

namespace Sys2Proof.Machine

/-- The check at the start of an operation, in words of the operands (10_state R35). -/
theorem operandsWritten_iff (op : Byte) (s : State) : operandsWritten op s = true ↔ OperandsWritten op s := by
  have used : ∀ p : Prop, [Decidable p] → ∀ n : Nat,
      (List.range (if p then n else 0)).all (fun k => s.wrote.txbuf.getLsbD k) = true ↔
        (p → ∀ k < n, s.wrote.txbuf.getLsbD k = true) := by
    intro p _ n
    by_cases hp : p <;> simp [hp]
  unfold operandsWritten OperandsWritten txBytesUsed argTxLen argRespLen
  by_cases h1 : op = 0x01#8
  · subst h1; simp [used, Config.txBufBytes, -List.all_eq_true]
  by_cases h2 : op = 0x02#8
  · subst h2; simp [used, Config.txBufBytes, Config.rxBufBytes, -List.all_eq_true]
  by_cases h3 : op = 0x03#8
  · subst h3; simp
  by_cases h4 : op = 0x04#8
  · subst h4; simp
  by_cases h6 : op = 0x06#8
  · subst h6
    simp [Ranges.noneBelow_iff, streamBytes, imageRows, argCrop]
  · simp only [h1, h2, h3, h4, h6, or_self, if_false, List.mem_cons, List.not_mem_nil, or_false, false_or,
      IsEmpty.forall_iff, true_and, and_true]
    split_ifs with h <;> simp [h]

/-- Everything the fetch can give: a host's `CMD` write to an engine that accepts it, or the word a busy sequencer
stands at. -/
theorem fetch_some {s : State} {bytes : List Byte} (h : fetch s = some bytes) :
    (∃ v rest, s.host = .writeReg 0 v :: rest ∧ s.status.busy = false ∧ s.status.fatal = false ∧
      bytes = [v.setWidth 8]) ∨
    ((s.host = [] ∨ ∃ rest, s.host = .engine :: rest) ∧ s.status.busy = true ∧ s.status.fatal = false ∧
      bytes = seqWord s) := by
  unfold fetch at h
  split at h
  · split at h
    · cases h
    · cases h; simp_all
  · split at h
    · cases h; simp_all
    · cases h
  · split at h
    · cases h; simp_all
    · cases h
  · cases h

/-- Everything a step can do that gives a next state. -/
theorem step_next {s t : State} (h : step s = .next t) :
    (fetch s = none ∧ portStep s = .next t) ∨
    (∃ bytes i, fetch s = some bytes ∧ decode bytes = .ok i ∧ exec i (popHost s) = .next t) ∨
    (∃ op e, fetch s = some [op] ∧ decode [op] = .error e ∧ s.status.busy = false ∧
      t = startReserved op (popHost s)) := by
  unfold step at h
  split at h
  · exact .inl ⟨by assumption, h⟩
  · split at h
    · exact .inr (.inl ⟨_, _, by assumption, by assumption, h⟩)
    · unfold undecoded at h
      split at h
      · split at h
        · cases h
        · cases h
          exact .inr (.inr ⟨_, _, by assumption, by assumption, by simp_all, rfl⟩)
      · cases h

/-- The response length of a single-command operation (46_device_control R170). -/
def replyLength (op : Byte) : Nat := if op = 0x10#8 ∨ op = 0x15#8 then 2 else 0

/-- Every transition of the sequencer of a running operation, with where it starts from (10_state R14). -/
inductive Transition (s : State) : State → Prop
  | ckRun : Running 0x01#8 .ckRun s → Transition s (ckRun s)
  | sdTx : Running 0x02#8 .sdTx s → Transition s (sdTx s)
  | sdRx : Running 0x02#8 .sdRx s → Transition s (sdRx s)
  | bnCheck : Running 0x03#8 .bnCheck s → Transition s (bnCheck s)
  | bnCmd (r : Rate) : Running 0x03#8 .bnCmd s → rateOf s.latch.rate = some r → Transition s (bnCmd r s)
  | bnRate (r : Rate) : Running 0x03#8 .bnRate s → rateOf s.latch.rate = some r → Transition s (bnRate r s)
  | bnAck : Running 0x03#8 .bnAck s → Transition s (bnAck s)
  | bnTest : Running 0x03#8 .bnTest s → Transition s (bnTest s)
  | bnReply : Running 0x03#8 .bnReply s → Transition s (bnReply s)
  | bnConf : Running 0x03#8 .bnConf s → Transition s (bnConf s)
  | bnRoll : Running 0x03#8 .bnRoll s → Transition s (bnRoll s)
  | exTx : Running 0x04#8 .exTx s → Transition s (exTx s)
  | exWait : Running 0x04#8 .exWait s → Transition s (exWait s)
  | riX : Running 0x05#8 .riX s → Transition s (riX s)
  | riSync : Running 0x05#8 .riSync s → Transition s (riSync s)
  | riBlk : Running 0x05#8 .riBlk s → Transition s (riBlk s)
  | riAck : Running 0x05#8 .riAck s → Transition s (riAck s)
  | riRetry : Running 0x05#8 .riRetry s → Transition s (riRetry s)
  | riAbort : Running 0x05#8 .riAbort s → Transition s (riAbort s)
  | riEpi : Running 0x05#8 .riEpi s → Transition s (riEpi s)
  | riDec : Running 0x05#8 .riDec s → Transition s (riDec s)
  | deRun : Running 0x06#8 .deRun s → Transition s (deRun s)
  | dcTx (p : Byte × List Byte) : Running s.latch.op .dcTx s → controlPayload s.latch = some p →
      Transition s (dcTx p.1 p.2 (replyLength s.latch.op) s)
  | pingRx : Running 0x10#8 .dcRx s → Transition s (pingRx s)
  | fwRx : Running 0x15#8 .dcRx s → Transition s (fwRx s)

/-- Everything an operation's meaning can do that gives a next state, `advance` being its transitions. -/
theorem runOperation_cases {op : Byte} {first : Seq} {advance : State → Option State} {s t : State}
    (h : runOperation op first advance s = .next t)
    (ha : s.status.busy = true → s.status.fatal = false → s.latch.op = op → advance s = some t → Transition s t) :
    (s.status.fatal = true ∧ t = s) ∨ (s.status.fatal = false ∧ s.status.busy = true ∧ t = overrun s) ∨
    (Idle s ∧ operandsWritten op s = true ∧ t = start op first s) ∨ Transition s t := by
  rcases runOperation_next h with h | ⟨hf, hb, ho, hs⟩ | ⟨hf, hb, -, ht⟩ | ⟨hf, hb, hw, ht⟩
  · exact .inl h
  · exact .inr (.inr (.inr (ha hb hf ho hs)))
  · exact .inr (.inl ⟨hf, hb, ht⟩)
  · exact .inr (.inr (.inl ⟨⟨hb, hf⟩, hw, ht⟩))

/-- A frame that is written is due, and its transition is taken. -/
theorem whenDue_next {d : Bool} {f : State → State} {s t : State} (h : whenDue d f s = .next t) :
    d = true ∧ t = f s := by
  unfold whenDue at h
  split at h
  · cases h; exact ⟨by assumption, rfl⟩
  · cases h

/-- A single-command operation's transition. -/
theorem transition_dcTx {s : State} {op : Byte} {c : Byte} {args : List Byte} {m : Nat} (h : Running op .dcTx s)
    (hp : controlPayload s.latch = some (c, args)) (hm : m = replyLength op) : Transition s (dcTx c args m s) := by
  subst hm
  have ho := h.2.2.1
  subst ho
  exact .dcTx (c, args) h hp

theorem setbaudStep_transition {s t : State} (hb : s.status.busy = true) (hf : s.status.fatal = false)
    (ho : s.latch.op = 0x03#8) (h : setbaudStep s = some t) : Transition s t := by
  unfold setbaudStep at h
  split at h <;> rename_i hq
  case h_2 =>
    obtain ⟨r, hr, rfl⟩ := Option.map_eq_some_iff.mp h
    exact .bnCmd r ⟨hb, hf, ho, hq⟩ hr
  case h_3 =>
    obtain ⟨r, hr, rfl⟩ := Option.map_eq_some_iff.mp h
    exact .bnRate r ⟨hb, hf, ho, hq⟩ hr
  case h_9 => cases h
  all_goals cases h
  exacts [.bnCheck ⟨hb, hf, ho, hq⟩, .bnAck ⟨hb, hf, ho, hq⟩, .bnTest ⟨hb, hf, ho, hq⟩, .bnReply ⟨hb, hf, ho, hq⟩,
    .bnConf ⟨hb, hf, ho, hq⟩, .bnRoll ⟨hb, hf, ho, hq⟩]

theorem readimgStep_transition {s t : State} (hb : s.status.busy = true) (hf : s.status.fatal = false)
    (ho : s.latch.op = 0x05#8) (h : readimgStep s = some t) : Transition s t := by
  unfold readimgStep at h
  split at h <;> rename_i hq
  case h_9 => cases h
  all_goals cases h
  exacts [.riX ⟨hb, hf, ho, hq⟩, .riSync ⟨hb, hf, ho, hq⟩, .riBlk ⟨hb, hf, ho, hq⟩, .riAck ⟨hb, hf, ho, hq⟩,
    .riRetry ⟨hb, hf, ho, hq⟩, .riAbort ⟨hb, hf, ho, hq⟩, .riEpi ⟨hb, hf, ho, hq⟩, .riDec ⟨hb, hf, ho, hq⟩]

theorem dcOnly_transition {s t : State} {op c : Byte} {args : List Byte} (hb : s.status.busy = true)
    (hf : s.status.fatal = false) (ho : s.latch.op = op) (hp : controlPayload s.latch = some (c, args))
    (hm : replyLength op = 0) (h : dcOnly c args s = some t) : Transition s t := by
  unfold dcOnly at h
  split at h <;> cases h
  exact transition_dcTx ⟨hb, hf, ho, by assumption⟩ hp hm.symm

theorem dcReply_transition {s t : State} {op c : Byte} {rx : State → State} (hb : s.status.busy = true)
    (hf : s.status.fatal = false) (ho : s.latch.op = op) (hp : controlPayload s.latch = some (c, []))
    (hm : replyLength op = 2) (hr : Running op .dcRx s → Transition s (rx s)) (h : dcReply c rx s = some t) :
    Transition s t := by
  unfold dcReply at h
  split at h <;> cases h
  · exact transition_dcTx ⟨hb, hf, ho, by assumption⟩ hp hm.symm
  · exact hr ⟨hb, hf, ho, by assumption⟩

theorem sendStep_transition {s t : State} (hb : s.status.busy = true) (hf : s.status.fatal = false)
    (ho : s.latch.op = 0x02#8) (h : sendStep s = some t) : Transition s t := by
  unfold sendStep at h
  split at h <;> cases h
  · exact .sdTx ⟨hb, hf, ho, by assumption⟩
  · exact .sdRx ⟨hb, hf, ho, by assumption⟩

theorem startexpStep_transition {s t : State} (hb : s.status.busy = true) (hf : s.status.fatal = false)
    (ho : s.latch.op = 0x04#8) (h : startexpStep s = some t) : Transition s t := by
  unfold startexpStep at h
  split at h <;> cases h
  · exact .exTx ⟨hb, hf, ho, by assumption⟩
  · exact .exWait ⟨hb, hf, ho, by assumption⟩

/-- Everything instruction `i` can do in `s` that leads to `t`: nothing (fatal), an overrun, the start of its operation, or
one transition of the operation that runs. -/
def InstrStep (i : Instr) (s t : State) : Prop :=
  (s.status.fatal = true ∧ t = s) ∨ (s.status.fatal = false ∧ s.status.busy = true ∧ t = overrun s) ∨
  (Idle s ∧ ∃ op q, (op, i, q) ∈ hostOps ∧ operandsWritten op s = true ∧ t = start op q s) ∨ Transition s t

/-- What a host operation of the table does. -/
theorem operation_step {op : Byte} {i : Instr} {q : Seq} {advance : State → Option State} {s t : State}
    (hm : (op, i, q) ∈ hostOps) (h : runOperation op q advance s = .next t)
    (ha : s.status.busy = true → s.status.fatal = false → s.latch.op = op → advance s = some t → Transition s t) :
    InstrStep i s t := by
  rcases runOperation_cases h ha with h | h | ⟨hi, hw, ht⟩ | h
  · exact .inl h
  · exact .inr (.inl h)
  · exact .inr (.inr (.inl ⟨hi, op, q, hm, hw, ht⟩))
  · exact .inr (.inr (.inr h))

/-- What a single-command operation without a reply does. -/
theorem command_step (op c : Byte) (args : State → List Byte) {i : Instr} {s t : State}
    (hm : (op, i, .dcTx) ∈ hostOps) (hp : s.latch.op = op → controlPayload s.latch = some (c, args s))
    (hr : replyLength op = 0) (h : runOperation op .dcTx (fun s => dcOnly c (args s) s) s = .next t) : InstrStep i s t :=
  operation_step hm h (fun hb hf ho ha => dcOnly_transition hb hf ho (hp ho) hr ha)

/-- A `B` frame that is written. -/
theorem frameB_next {r : Rate} {s t : State} (h : frameB r s = .next t) : Transition s t := by
  obtain ⟨hd, rfl⟩ := whenDue_next h
  rw [Bool.and_eq_true, runsAt_iff, beq_iff_eq] at hd
  exact .bnCmd r hd.1 hd.2

/-- A frame of HEATER or CHOP that is written. -/
theorem frameOn_next {op c : Byte} {on : Bool} {s t : State} (h : frameOn op c on s = .next t)
    (hp : s.latch.op = op → controlPayload s.latch = some (c, [bitByte s.latch.on])) (hm : replyLength op = 0) :
    Transition s t := by
  obtain ⟨hd, rfl⟩ := whenDue_next h
  rw [Bool.and_eq_true, runsAt_iff, beq_iff_eq] at hd
  obtain ⟨hr, rfl⟩ := hd
  exact transition_dcTx hr (hp hr.2.2.1) hm.symm

/-- Everything an instruction can do that gives a next state. -/
theorem exec_next {i : Instr} {s t : State} (h : exec i s = .next t) : InstrStep i s t := by
  have frame : Transition s t → InstrStep i s t := fun h => .inr (.inr (.inr h))
  cases i with
  | cksum =>
    rw [exec, execCksum] at h
    refine operation_step (by simp [hostOps]) h (fun hb hf ho ha => ?_)
    split at ha <;> cases ha
    exact .ckRun ⟨hb, hf, ho, by assumption⟩
  | decodePix =>
    rw [exec, execDecode] at h
    refine operation_step (by simp [hostOps]) h (fun hb hf ho ha => ?_)
    split at ha <;> cases ha
    exact .deRun ⟨hb, hf, ho, by assumption⟩
  | send => exact operation_step (by simp [hostOps]) h sendStep_transition
  | setbaud => exact operation_step (by simp [hostOps]) h setbaudStep_transition
  | startexp => exact operation_step (by simp [hostOps]) h startexpStep_transition
  | readimg => exact operation_step (by simp [hostOps]) h readimgStep_transition
  | ping =>
    exact operation_step (by simp [hostOps]) h
      (fun hb hf ho ha => dcReply_transition hb hf ho (by simp [controlPayload, ho]) rfl .pingRx ha)
  | fwquery =>
    exact operation_step (by simp [hostOps]) h
      (fun hb hf ho ha => dcReply_transition hb hf ho (by simp [controlPayload, ho]) rfl .fwRx ha)
  | shopen =>
    exact command_step (i := .shopen) 0x11#8 0x4F#8 (fun _ => []) (by simp [hostOps])
      (fun ho => by simp [controlPayload, ho]) rfl h
  | shclose =>
    exact command_step (i := .shclose) 0x12#8 0x43#8 (fun _ => []) (by simp [hostOps])
      (fun ho => by simp [controlPayload, ho]) rfl h
  | shdeen =>
    exact command_step (i := .shdeen) 0x13#8 0x4B#8 (fun _ => []) (by simp [hostOps])
      (fun ho => by simp [controlPayload, ho]) rfl h
  | abortexp =>
    exact command_step (i := .abortexp) 0x14#8 0x41#8 (fun _ => []) (by simp [hostOps])
      (fun ho => by simp [controlPayload, ho]) rfl h
  | heater =>
    exact command_step (i := .heater) 0x16#8 0x67#8 (fun s => [bitByte s.latch.on]) (by simp [hostOps])
      (fun ho => by simp [controlPayload, ho]) rfl h
  | chop =>
    exact command_step (i := .chop) 0x17#8 0x55#8 (fun s => [bitByte s.latch.on]) (by simp [hostOps])
      (fun ho => by simp [controlPayload, ho]) rfl h
  | frameE | frameO | frameC | frameA | frameV =>
    obtain ⟨hd, rfl⟩ := whenDue_next h
    rw [runsAt_iff] at hd
    exact frame (transition_dcTx hd (by simp [controlPayload, hd.2.2.1]) rfl)
  | frameK =>
    simp only [exec, execFrameK] at h
    split at h
    · rename_i hd
      rw [runsAt_iff] at hd
      cases h
      exact frame (transition_dcTx hd (by simp [controlPayload, hd.2.2.1]) rfl)
    · obtain ⟨hd, rfl⟩ := whenDue_next h
      rw [runsAt_iff] at hd
      exact frame (.riAck hd)
  | frameG0 | frameG1 | frameU0 | frameU1 =>
    exact frame (frameOn_next h (fun ho => by simp [controlPayload, ho]) rfl)
  | frameB0 | frameB1 | frameB2 | frameB3 | frameB4 | frameB5 | frameB6 => exact frame (frameB_next h)
  | frameTest =>
    obtain ⟨hd, rfl⟩ := whenDue_next h
    exact frame (.bnTest ((runsAt_iff _ _ _).1 hd))
  | frameKconf =>
    obtain ⟨hd, rfl⟩ := whenDue_next h
    exact frame (.bnConf ((runsAt_iff _ _ _).1 hd))
  | frameT ticks light =>
    obtain ⟨hd, rfl⟩ := whenDue_next h
    rw [Bool.and_eq_true, Bool.and_eq_true, runsAt_iff] at hd
    exact frame (.exTx hd.1.1)
  | frameX =>
    obtain ⟨hd, rfl⟩ := whenDue_next h
    exact frame (.riX ((runsAt_iff _ _ _).1 hd))
  | frameR =>
    obtain ⟨hd, rfl⟩ := whenDue_next h
    exact frame (.riRetry ((runsAt_iff _ _ _).1 hd))
  | frameS =>
    obtain ⟨hd, rfl⟩ := whenDue_next h
    exact frame (.riAbort ((runsAt_iff _ _ _).1 hd))

/-- Everything a step can do that gives a next state: wait, a host access, an overrun, the start of an operation or of a
reserved code, or one transition of the operation that runs. -/
theorem step_cases {s t : State} (h : step s = .next t) :
    (s.host = [] ∧ t = s) ∨
    (∃ a rest, s.host = a :: rest ∧ hostPort a (popHost s) = .next t) ∨
    (s.status.fatal = false ∧ s.status.busy = true ∧ t = overrun (popHost s)) ∨
    (Idle s ∧ ∃ i op q, (op, i, q) ∈ hostOps ∧ operandsWritten op s = true ∧ t = start op q (popHost s)) ∨
    (Idle s ∧ ∃ op, t = startReserved op (popHost s)) ∨
    (EngineTurn s ∧ Transition (popHost s) t) := by
  rcases step_next h with ⟨-, hp⟩ | ⟨bytes, i, hf, -, he⟩ | ⟨op, e, hf, -, hb, ht⟩
  · unfold portStep at hp
    split at hp
    · cases hp
      exact .inl ⟨by assumption, rfl⟩
    · exact .inr (.inl ⟨_, _, by assumption, hp⟩)
  · rcases exec_next he with ⟨hfat, -⟩ | h | ⟨hi, op, q, hm, hw, ht⟩ | ht
    · rcases fetch_some hf with ⟨_, _, _, _, hf', _⟩ | ⟨_, _, hf', _⟩ <;> exact absurd hfat (by simp [hf'])
    · exact .inr (.inr (.inl h))
    · exact .inr (.inr (.inr (.inl ⟨hi, i, op, q, hm, hw, ht⟩)))
    · refine .inr (.inr (.inr (.inr (.inr ⟨?_, ht⟩))))
      have busy : (popHost s).status.busy = true := by cases ht <;> exact (‹Running _ _ _›).1
      rcases fetch_some hf with ⟨_, _, _, hb, _, _⟩ | ⟨hh, _, _, _⟩
      · exact absurd busy (by simp [hb])
      · exact hh
  · rcases fetch_some hf with ⟨_, _, _, _, hf', _⟩ | ⟨_, hb', _, _⟩
    · exact .inr (.inr (.inr (.inr (.inl ⟨⟨hb, hf'⟩, op, ht⟩))))
    · exact absurd hb' (by simp [hb])

end Sys2Proof.Machine
end

