-- ==== Sys2Proof/Machine/HostAid.lean ====
section
/-! DEFINITION. What the spec has the HOST compute and do around the engine: seconds to ticks (43_exposure R130), the
version string (46_device_control R180), the expansions into SEND (30_encoding R88) and CAPTURE (30_encoding R89). No
step of the engine uses this file (log 25). -/

namespace Sys2Proof.Machine

/-- The ticks of a duration of `num / den` seconds: the nearest integer to `duration × 10000`, a tie to the even one;
no ticks for a duration below 0 or beyond 24 bits (43_exposure R130). -/
def ticksOfSeconds (num : Int) (den : Nat) : Option (BitVec 24) :=
  if num < 0 ∨ den = 0 then none
  else
    let x := num.toNat * 10000
    let q := x / den
    let r := x % den
    let t := if 2 * r < den then q else if den < 2 * r then q + 1 else if q % 2 = 0 then q else q + 1
    if t < 2 ^ 24 then some (BitVec.ofNat 24 t) else none

/-- The characters of the version string, decimal and unpadded (46_device_control R180). -/
def versionChars (s : State) : List Char :=
  Char.ofNat s.fwType.toNat :: Nat.toDigits 10 s.fwMajor.toNat ++ '.' :: Nat.toDigits 10 s.fwMinor.toNat

/-- Host writes of consecutive registers. -/
def writeRegs : Nat → List Byte → List HostAct
  | _, [] => []
  | no, b :: bs => .writeReg no (b.setWidth 32) :: writeRegs (no + 1) bs

/-- Write `op` to `CMD` and let the engine take `n` steps (30_encoding R87). -/
def runScript (op : Byte) (n : Nat) : List HostAct := .writeReg 0 (op.setWidth 32) :: List.replicate n .engine

/-- `TXBUF <- payload; TXLEN <- len; RESPLEN <- m; SEND` (30_encoding R88). -/
def sendScript (payload : List Byte) (m : Byte) : List HostAct :=
  writeRegs 32 payload ++ .writeReg 7 ((m ++ BitVec.ofNat 8 payload.length).setWidth 32) ::
    runScript 0x02#8 (if m = 0#8 then 1 else 2)

/-- The first part of `CAPTURE ticks, light, crop` (30_encoding R89): the operand writes, the other flag as the register
holds it, and STARTEXP with at most `polls` polls. -/
def captureExpose (ticks : BitVec 24) (light crop : Bool) (polls : Nat) (s : State) : List HostAct :=
  [.writeReg 4 (ticks.setWidth 32), .writeReg 5 (flagBit light 0 ||| flagBit crop 1 ||| flagBit (argOn s) 2)] ++
    runScript 0x04#8 (1 + polls)

/-- The second part of CAPTURE, which the host takes only if `STATUS.OK` is 1 (30_encoding R89). -/
def captureRead (steps : Nat) (s : State) : List HostAct := if s.status.ok then runScript 0x05#8 steps else []

end Sys2Proof.Machine
end

