-- ==== Sys2Proof/Tests/Slice0.lean ====
section
/-! SUPPORT. Tests on fixed values, their expected results from the tables and vectors of spec/ (95_test_vectors), and for
every statement with hypotheses a state that meets them all (`wit_`). -/

namespace Sys2Proof.Tests

open Sys2Proof.Machine

-- Small states

/-- After reset, the line opened at 9600 (the start state of 95_test_vectors section 3). -/
def bench : State := { State.reset with baudCur := .r9600, baudPrev := .r9600, lineRate := some .r9600 }

/-- Operation `op` runs, the sequencer is at `q`, the environment will answer `as`. -/
def running (op : Byte) (q : Seq) (as : List Answer) : State :=
  { bench with seq := q, status := ⟨true, false, false, false⟩, latch := { Latches.reset with op := op }, answers := as }

/-- A write or a rate switch that succeeds. -/
def yes : Answer := ⟨true, []⟩

/-- A write or a rate switch that fails. -/
def no : Answer := ⟨false, []⟩

/-- A read that returns these bytes. -/
def gives (r : List Byte) : Answer := ⟨true, r⟩

/-- The host is about to do `a` to an idle engine. -/
def host (a : HostAct) : State := { bench with host := [a] }

/-- The host is about to write `v` to `CMD`. -/
def command (v : Word32) : State := host (.writeReg 0 v)

/-- The same, every operand written, 16 bytes to send and to read. -/
def ready (v : Word32) : State :=
  { command v with argLen := 0x1010#16, wrote := HostWrites.everything, rawUnwritten := [] }

/-- The engine is in `FATAL`. -/
def dead : State := { bench with seq := .fatal, status := ⟨false, true, false, true⟩ }

/-- What `f` is of the next state, if there is one. -/
def after {α : Type} (o : Outcome) (f : State → α) : Option α :=
  match o with
  | .next t => some (f t)
  | .fault _ => none
  | .refused _ => none

/-- The ends of an operation: `OK`, the packed `ERR`, the traffic of the step. -/
def ends (t : State) : Bool × Word32 × List LinkCall := (t.status.ok, t.err.word, t.traffic)

-- WellFormed

theorem test_wellFormed_refuses_25_bit_ticks : (Instr.frameT 16777216 false).wellFormed = false := by decide
theorem test_wellFormed_allows_the_most_ticks : (Instr.frameT 16777215 true).wellFormed = true := by decide

-- Decoding, the words from the tables of 30_encoding R71, R80

theorem test_decode_host :
    decode [0x01#8] = .ok .cksum ∧ decode [0x02#8] = .ok .send ∧ decode [0x03#8] = .ok .setbaud ∧
    decode [0x04#8] = .ok .startexp ∧ decode [0x05#8] = .ok .readimg ∧ decode [0x06#8] = .ok .decodePix ∧
    decode [0x10#8] = .ok .ping ∧ decode [0x11#8] = .ok .shopen ∧ decode [0x12#8] = .ok .shclose ∧
    decode [0x13#8] = .ok .shdeen ∧ decode [0x14#8] = .ok .abortexp ∧ decode [0x15#8] = .ok .fwquery ∧
    decode [0x16#8] = .ok .heater ∧ decode [0x17#8] = .ok .chop := by decide

theorem test_decode_w2 :
    decode [0x45#8, 0x3A#8] = .ok .frameE ∧ decode [0x4F#8, 0x30#8] = .ok .frameO ∧
    decode [0x43#8, 0x3C#8] = .ok .frameC ∧ decode [0x4B#8, 0x34#8] = .ok .frameK ∧
    decode [0x41#8, 0x3E#8] = .ok .frameA ∧ decode [0x56#8, 0x29#8] = .ok .frameV ∧
    decode [0x6B#8, 0x14#8] = .ok .frameKconf ∧ decode [0x58#8, 0x27#8] = .ok .frameX ∧
    decode [0x52#8, 0x2D#8] = .ok .frameR ∧ decode [0x53#8, 0x2C#8] = .ok .frameS := by decide

theorem test_decode_w3 :
    decode [0x67#8, 0x00#8, 0x67#8] = .ok .frameG0 ∧ decode [0x67#8, 0x01#8, 0x66#8] = .ok .frameG1 ∧
    decode [0x55#8, 0x00#8, 0x55#8] = .ok .frameU0 ∧ decode [0x55#8, 0x01#8, 0x54#8] = .ok .frameU1 ∧
    decode [0x42#8, 0x30#8, 0x72#8] = .ok .frameB0 ∧ decode [0x42#8, 0x31#8, 0x73#8] = .ok .frameB1 ∧
    decode [0x42#8, 0x32#8, 0x70#8] = .ok .frameB2 ∧ decode [0x42#8, 0x33#8, 0x71#8] = .ok .frameB3 ∧
    decode [0x42#8, 0x34#8, 0x76#8] = .ok .frameB4 ∧ decode [0x42#8, 0x35#8, 0x77#8] = .ok .frameB5 ∧
    decode [0x42#8, 0x36#8, 0x74#8] = .ok .frameB6 := by decide

/-- Vectors TF2, TF12 and TF14, and the diagnostic frame. -/
theorem test_decode_long :
    decode [0x54#8, 0x65#8, 0x73#8, 0x74#8, 0x36#8] = .ok .frameTest ∧
    decode [0x54#8, 0x00#8, 0x00#8, 0x00#8, 0x00#8, 0x01#8, 0x55#8] = .ok (.frameT 0 true) ∧
    decode [0x54#8, 0x12#8, 0x34#8, 0x56#8, 0x00#8, 0x01#8, 0x25#8] = .ok (.frameT 1193046 true) ∧
    decode [0x54#8, 0xFF#8, 0xFF#8, 0xFF#8, 0x00#8, 0x00#8, 0x2B#8] = .ok (.frameT 16777215 false) := by decide

/-- A reserved code, a wrong checksum, one with bit 7 set, a type field with another bit, the digit 7. -/
theorem test_decode_rejects :
    decode [] = .error .empty ∧ decode [0x07#8] = .error (.reservedCode 0x07#8) ∧
    decode [0x45#8, 0x3B#8] = .error (.badChecksum [0x45#8] 0x3B#8) ∧
    decode [0x45#8, 0xBA#8] = .error (.badChecksum [0x45#8] 0xBA#8) ∧
    decode [0x54#8, 0x00#8, 0x00#8, 0x00#8, 0x00#8, 0x02#8, 0x56#8] =
      .error (.unknownFrame [0x54#8, 0x00#8, 0x00#8, 0x00#8, 0x00#8, 0x02#8]) ∧
    decode [0x42#8, 0x37#8, 0x75#8] = .error (.unknownFrame [0x42#8, 0x37#8]) := by decide

/-- Words of spec/opcode_table.json with the instruction each is a row of; a word of row FRAME_T may leave its checksum
bits 0 (log 5). -/
def tableWords : List (Nat × Nat × Instr) :=
  [(8, 0x01, .cksum), (8, 0x02, .send), (8, 0x03, .setbaud), (8, 0x04, .startexp), (8, 0x05, .readimg),
   (8, 0x06, .decodePix), (8, 0x10, .ping), (8, 0x11, .shopen), (8, 0x12, .shclose), (8, 0x13, .shdeen),
   (8, 0x14, .abortexp), (8, 0x15, .fwquery), (8, 0x16, .heater), (8, 0x17, .chop)] ++
  [(16, 0x453A, .frameE), (16, 0x4F30, .frameO), (16, 0x433C, .frameC), (16, 0x4B34, .frameK), (16, 0x413E, .frameA),
   (16, 0x5629, .frameV), (24, 0x670067, .frameG0), (24, 0x670166, .frameG1), (24, 0x550055, .frameU0),
   (24, 0x550154, .frameU1), (24, 0x423072, .frameB0), (24, 0x423173, .frameB1), (24, 0x423270, .frameB2),
   (24, 0x423371, .frameB3), (24, 0x423476, .frameB4), (24, 0x423577, .frameB5), (24, 0x423674, .frameB6)] ++
  [(40, 0x5465737436, .frameTest), (16, 0x6B14, .frameKconf), (56, 0x54002710000162, .frameT 10000 true),
   (56, 0x54000000000000, .frameT 0 false), (16, 0x5827, .frameX), (16, 0x522D, .frameR), (16, 0x532C, .frameS)]

theorem test_table_words_decode : ∀ x ∈ tableWords, decodeTableWord x.1 x.2.1 = some x.2.2 := by decide

/-- Each of them runs as the first instruction after reset: there is a next state. -/
theorem test_table_words_run : ∀ x ∈ tableWords,
    fetch (State.reset.withFetchWord x.1 x.2.1) = some (encode x.2.2) ∧
    after (step (State.reset.withFetchWord x.1 x.2.1)) (fun _ => true) = some true := by decide

-- The codecs (95_test_vectors 2.1, 2.2; 43_exposure R130; 46_device_control R180)

/-- Vectors CK1, CK3, CK9, CK15, CK18. -/
theorem test_compute :
    compute [0x45#8] = some 0x3A#8 ∧ compute [0xFF#8] = some 0x00#8 ∧ compute [0x00#8, 0x00#8, 0x00#8] = some 0x7F#8 ∧
    compute [0x01#8, 0x02#8, 0x03#8, 0x04#8, 0x05#8] = some 0x7E#8 ∧
    compute [0x54#8, 0x65#8, 0x73#8, 0x74#8, 0x4F#8, 0x6B#8] = some 0x12#8 := by decide

/-- The pattern of LR4: all eight bits take part, nothing is complemented. -/
theorem test_lrc : lrc [0xA5#8, 0xA5#8, 0xA5#8, 0x5A#8] = 0xFF#8 ∧ lrc [0xA5#8, 0xA5#8] = 0x00#8 := by decide

/-- PD9 and PD10. -/
theorem test_sample : sample .aLow 0x34#8 0x12#8 = 0x1234#16 ∧ sample .aHigh 0x34#8 0x12#8 = 0x3412#16 := by decide

/-- Ticks: 0.00015 s and 0.00025 s are ties that both give 2 ticks, 1677.7216 s and -1 s are refused. -/
theorem test_ticks : ticksOfSeconds 15 100000 = some 2#24 ∧ ticksOfSeconds 25 100000 = some 2#24 ∧
    ticksOfSeconds 35 100000 = some 4#24 ∧ ticksOfSeconds 16777216 10000 = none ∧ ticksOfSeconds (-1) 1 = none := by
  decide

/-- FW1: `V1.10`. -/
theorem test_versionChars :
    versionChars { bench with fwType := 0x56#8, fwMajor := 1#8, fwMinor := 10#8 } = ['V', '1', '.', '1', '0'] := by decide

-- One step of each operation

/-- CK1 and CK20. -/
def ckState (n : Byte) : State :=
  { running 0x01#8 .ckRun [] with
    txbuf := 0x45#8 :: List.replicate 15 0#8
    latch := { Latches.reset with op := 0x01#8, txlen := n } }

theorem test_cksum_one_byte :
    after (step (ckState 1#8)) (fun t => (t.resCks, ends t)) = some (0x3A#8, true, 0#32, []) := by decide
theorem test_cksum_no_byte :
    after (step (ckState 0#8)) (fun t => (ends t, t.log)) =
      some ((false, 0x00000009#32, []), [⟨9#8, 0x01#8, 0x00#8, 0#7, 0#3⟩]) := by decide

/-- SD4, SD8, SD2: the payload 67 01 or 45, `m` bytes of response. -/
def sdState (q : Seq) (n m : Byte) (as : List Answer) : State :=
  { running 0x02#8 q as with
    txbuf := [0x67#8, 0x01#8] ++ List.replicate 14 0#8
    lastCmd := if q = .sdRx then 0x45#8 else 0x00#8
    latch := { Latches.reset with op := 0x02#8, txlen := n, resplen := m } }

theorem test_send_writes : after (step (sdState .sdTx 2#8 0#8 [yes])) ends =
    some (true, 0#32, [.write [0x67#8, 0x01#8, 0x66#8] true]) := by decide
theorem test_send_short_response :
    after (step (sdState .sdRx 1#8 2#8 [gives [0x45#8]])) (fun t => (ends t, t.rxlen, t.rxbuf.head?)) =
      some ((false, 0x00004501#32, [.read 2 [0x45#8]]), 1#8, some 0x45#8) := by decide

/-- SETBAUD at `q` with the rate `bps`. -/
def bnState (q : Seq) (bps : Word32) (as : List Answer) : State :=
  { running 0x03#8 q as with latch := { Latches.reset with op := 0x03#8, rate := bps }, lastCmd := 0x54#8 }

/-- BN5 and BN4. -/
theorem test_setbaud_bad_rate : after (step (bnState .bnCheck 14400#32 [])) (fun t => (t.status.ok, t.err.code, t.traffic)) =
    some (false, 4#8, []) := by decide
theorem test_setbaud_six_bytes :
    after (step (bnState .bnReply 115200#32 [gives testOk])) (fun t => (t.seq, t.log, t.rxlen)) =
      some (.bnRoll, [⟨1#8, 0x03#8, 0x54#8, 0#7, 0#3⟩], 6#8) := by decide

/-- STARTEXP at `q` with bound `bound` and `polls` made. -/
def exState (q : Seq) (bound polls : Word32) (as : List Answer) : State :=
  { running 0x04#8 q as with
    latch := { Latches.reset with op := 0x04#8, ticks := 10000#24, light := true, readyMax := bound }
    polls := polls
    lastCmd := 0x54#8 }

/-- RW8 (cancel comes first) and RW5 (a `D` on the last poll). -/
theorem test_startexp_cancel_first :
    after (step { exState .exWait 0#32 0#32 [] with cancel := true }) ends = some (false, 0x00005408#32, []) := by decide
theorem test_startexp_last_poll :
    after (step (exState .exWait 3#32 2#32 [gives [0x44#8]])) (fun t => (ends t, t.polls)) =
      some ((true, 0#32, [.read 1 [0x44#8]]), 3#32) := by decide

/-- READIMG at `q`, block `blk` of a cropped image, `att` retries made. -/
def riState (q : Seq) (blk : BitVec 7) (att : BitVec 3) (as : List Answer) : State :=
  { running 0x05#8 q as with
    latch := { Latches.reset with op := 0x05#8, crop := true }
    nblk := 60#7
    blk := blk
    att := att
    lastCmd := 0x4B#8
    rawUnwritten := [(8192 * blk.toNat, 614400)] }

/-- RI9 (a short epilogue) and the block count of a cropped image. -/
theorem test_readimg_short_epilogue :
    after (step (riState .riEpi 60#7 0#3 [gives [1#8, 2#8, 3#8]])) (fun t => t.err.word) = some 0x003C4B01#32 := by decide
theorem test_readimg_cropped : after (step (riState .riSync 9#7 4#3 [gives [0xA5#8]])) (fun t => (t.nblk, t.blk, t.att, t.seq)) =
    some (60#7, 0#7, 0#3, .riBlk) := by decide

/-- DECODE. -/
theorem test_decodePix_ends : after (step (running 0x06#8 .deRun [])) ends = some (true, 0#32, []) := by decide

/-- DC4 and the frame of PING; FW7; CR4. -/
theorem test_ping : after (step (running 0x10#8 .dcTx [yes])) (fun t => (t.seq, t.traffic)) =
    some (.dcRx, [.write [0x45#8, 0x3A#8] true]) := by decide
theorem test_ping_first_byte : after (step (running 0x10#8 .dcRx [gives [0x4F#8, 0x45#8]])) (fun t => (t.status, t.err, t.log)) =
    some (⟨false, true, false, false⟩, ErrReg.none, []) := by decide
theorem test_fwquery : after (step (running 0x15#8 .dcRx [gives [0x10#8, 0x03#8]])) (fun t => fwWord t) =
    some 0x00030854#32 := by decide
theorem test_shopen : after (step (running 0x11#8 .dcTx [yes])) ends = some (true, 0#32, [.write [0x4F#8, 0x30#8] true]) := by
  decide
theorem test_shclose : after (step (running 0x12#8 .dcTx [yes])) ends = some (true, 0#32, [.write [0x43#8, 0x3C#8] true]) := by
  decide
theorem test_shdeen : after (step (running 0x13#8 .dcTx [yes])) ends = some (true, 0#32, [.write [0x4B#8, 0x34#8] true]) := by
  decide
theorem test_abortexp : after (step (running 0x14#8 .dcTx [yes])) ends =
    some (true, 0#32, [.write [0x41#8, 0x3E#8] true]) := by decide
theorem test_heater_off : after (step (running 0x16#8 .dcTx [yes])) ends =
    some (true, 0#32, [.write [0x67#8, 0x00#8, 0x67#8] true]) := by decide
theorem test_chop_off : after (step (running 0x17#8 .dcTx [yes])) ends =
    some (true, 0#32, [.write [0x55#8, 0x00#8, 0x55#8] true]) := by decide

/-- RI3's last frame: `S` writes 53 2C, marks block 7 and goes on to block 8. -/
theorem test_frameS : after (exec .frameS (riState .riAbort 7#7 5#3 [yes]))
    (fun t => (t.traffic, t.substCnt, t.substMap, t.blk, t.log)) =
    some ([.write [0x53#8, 0x2C#8] true], 1#7, 0x80#75, 8#7, [⟨3#8, 0x05#8, 0x53#8, 7#7, 5#3⟩]) := by decide

/-- RI12: a `K` that cannot be written. -/
theorem test_frameK_fails : after (exec .frameK (riState .riAck 10#7 0#3 [no])) (fun t => (t.err.word, t.seq)) =
    some (0x000A4B07#32, .fatal) := by decide

/-- A failed `X` records no block and no attempt, whatever an earlier READIMG left in `BLK` and `ATT` (10_state R33). -/
theorem test_frameX_fails : after (exec .frameX (riState .riX 9#7 4#3 [no])) (fun t => (t.err.word, t.seq)) =
    some (0x00005807#32, .fatal) := by decide

/-- A failed write in SETBAUD leaves the line rate unknown (42_baud R127). -/
theorem test_frameTest_fails : after (exec .frameTest (bnState .bnTest 115200#32 [no])) (fun t => (t.err.word, t.lineRate)) =
    some (0x00005407#32, none) := by decide

/-- TF7. -/
theorem test_frameT : after (exec (.frameT 10000 true) (exState .exTx 100#32 7#32 [yes])) (fun t => (t.traffic, t.polls)) =
    some ([.write [0x54#8, 0x00#8, 0x27#8, 0x10#8, 0x00#8, 0x01#8, 0x62#8] true], 0#32) := by decide

/-- CR1, CR3, CR4. -/
theorem test_reserved_code : after (step (command 0xFF#32)) (fun t => (t.err.word, t.esticky, t.log, t.status)) =
    some (0x00000009#32, 0x200#32, [⟨9#8, 0xFF#8, 0x00#8, 0#7, 0#3⟩], ⟨false, true, false, false⟩) := by decide
theorem test_command_high_bits : after (step (command 0x110#32)) (fun t => (t.seq, t.latch.op)) = some (.dcTx, 0x10#8) := by
  decide
theorem test_overrun :
    after (step { riState .riBlk 3#7 0#3 [] with host := [.writeReg 0 0x10#32] }) (fun t => (t.esticky, t.seq, t.log)) =
      some (0x400#32, .riBlk, []) := by decide

/-- CR6. -/
theorem test_reset_leaves_the_line :
    after (step { dead with lineRate := some .r115200, host := [.reset] }) (fun t => (t.status, t.lineRate)) =
      some (⟨false, false, false, false⟩, some .r115200) := by decide

-- Witnesses: the hypotheses of each statement, met together (at the ends of each clause's range)

/-- A next state from what a test computes of it. -/
theorem next_of {o : Outcome} {α : Type} {f : State → α} {v : α} (h : after o f = some v) :
    ∃ t, o = .next t ∧ f t = v := by
  cases o with
  | next t => exact ⟨t, rfl, Option.some.inj h⟩
  | fault _ => cases h
  | refused _ => cases h

/-- PING at its frame; STARTEXP before a poll; READIMG with no retry left. -/
def atE : State := running 0x10#8 .dcTx [yes]
def atPoll : State := exState .exWait 0#32 0#32 []
def atAbort : State := riState .riAbort 7#7 5#3 [yes]

theorem wit_inv_atE : Machine.Inv atE := by
  constructor <;> first | decide | simp [Idle, atE, running, bench]
theorem wit_inv_atPoll : Machine.Inv atPoll := by
  constructor <;> first | decide | simp [Idle, atPoll, exState, running, bench]
theorem wit_inv_atAbort : Machine.Inv atAbort := by
  constructor <;> first | decide | simp [Idle, atAbort, riState, running, bench]
def atPollWithHost : State := { exState .exWait 0#32 0#32 [] with host := [.engine] }
theorem wit_inv_atPollWithHost : Machine.Inv atPollWithHost := by
  constructor <;> first | decide | simp [Idle, atPollWithHost, exState, running, bench]
theorem wit_inv_command : Machine.Inv (command 0x07#32) := by
  constructor <;> first | decide | simp [Idle, command, host, bench, State.reset, Status.reset]
theorem wit_inv_ready : Machine.Inv (ready 0x06#32) := by
  constructor <;> first | decide | simp [Idle, ready, command, host, bench, State.reset, Status.reset]
theorem wit_substInv_atAbort : SubstInv atAbort := by
  constructor
  · decide
  · decide
  · intro _ k _
    simp [atAbort, riState, running, bench, State.reset]
theorem wit_turn_atE : EngineTurn atE := .inl rfl

theorem wit_DecodeUndoesEncode :
    (Instr.frameT 0 false).wellFormed = true ∧ (Instr.frameT 16777215 true).wellFormed = true ∧
    Instr.frameS.wellFormed = true := by decide
theorem wit_DecodedBytesAreTheEncoding : decode [0x45#8, 0x3A#8] = .ok .frameE ∧ decode [0x17#8] = .ok .chop := by decide
theorem wit_ChecksumUnitComputes : [0x45#8] ≠ [] := by decide
theorem wit_ComputeLaws : [0x45#8, 0x4F#8] ≠ [] ∧ 1 < [0x45#8, 0x4F#8].length ∧
    List.Perm [0x45#8, 0x4F#8] [0x4F#8, 0x45#8] := by decide
theorem wit_LrcLaws :
    (∀ b ∈ [0#8, 0#8], b = 0#8) ∧ List.Perm [1#8, 2#8] [2#8, 1#8] ∧
    [true, true].length = [1#8, 2#8].length ∧ [true, true].count true % 2 = 0 ∧ 1 < [1#8, 2#8].length := by decide
theorem wit_StepRunsTheDecodedInstruction :
    (fetch atE = some [0x45#8, 0x3A#8] ∧ decode [0x45#8, 0x3A#8] = .ok .frameE) ∧
    (fetch (command 0x18#32) = some [0x18#8] ∧ decode [0x18#8] = .error (.reservedCode 0x18#8) ∧
      (command 0x18#32).status.busy = false) ∧
    (fetch bench = none ∧ bench.host = []) ∧
    (fetch (host (.readReg 1)) = none ∧ (host (.readReg 1)).host = .readReg 1 :: []) := by decide
theorem wit_BusyEngineRunsItsOperation :
    (Machine.Inv atE ∧ atE.status.busy = true ∧ EngineTurn atE) ∧
    (Machine.Inv atPoll ∧ atPoll.status.busy = true ∧ EngineTurn atPoll) :=
  ⟨⟨wit_inv_atE, rfl, .inl rfl⟩, ⟨wit_inv_atPoll, rfl, .inl rfl⟩⟩
theorem wit_FrameIsItsOperationsTransition :
    (due .frameE atE ∧ decode [atE.latch.op] = .ok .ping) ∧
    (due .frameS atAbort ∧ decode [atAbort.latch.op] = .ok .readimg) :=
  ⟨⟨⟨rfl, rfl, rfl, rfl⟩, by decide⟩, ⟨⟨rfl, rfl, rfl, rfl⟩, by decide⟩⟩
theorem written_ready (op : Byte) (v : Word32) : OperandsWritten op (ready v) := by
  have bytes : ∀ k < (BitVec.extractLsb' 0 8 0x1010#16).toNat, HostWrites.everything.txbuf.getLsbD k = true := by decide
  refine ⟨fun _ => ⟨rfl, ?_⟩, fun _ => ⟨rfl, ?_⟩, fun _ => rfl, fun _ => ⟨rfl, rfl⟩, fun _ => rfl, fun _ _ _ => rfl⟩
  · exact fun _ => bytes
  · exact fun _ _ => bytes
theorem wit_CmdWriteStartsTheOperation : ∀ x ∈ hostOps,
    Idle (ready (0xABCDEF00#32 ||| x.1.setWidth 32)) ∧
    (ready (0xABCDEF00#32 ||| x.1.setWidth 32)).host = .writeReg 0 (0xABCDEF00#32 ||| x.1.setWidth 32) :: [] ∧
    (0xABCDEF00#32 ||| x.1.setWidth 32).setWidth 8 = x.1 ∧
    OperandsWritten x.1 (ready (0xABCDEF00#32 ||| x.1.setWidth 32)) := by
  have low : ∀ x ∈ hostOps, (0xABCDEF00#32 ||| x.1.setWidth 32).setWidth 8 = x.1 := by decide
  exact fun x hx => ⟨⟨rfl, rfl⟩, rfl, low x hx, written_ready _ _⟩

/-- DECODE with the addresses `g` of `RAW` unwritten. -/
def decodeWith (crop : Bool) (g : Ranges) : State :=
  { ready 0x06#32 with argFlags := if crop then 2#3 else 0#3, rawUnwritten := g }

/-- Each kind of operand, unwritten and written; the last byte of `TXBUF` and of the stream at its ends. -/
theorem wit_UnwrittenOperandIsRefused :
    (∀ x ∈ hostOps, Idle (command (x.1.setWidth 32)) ∧ (x.1.setWidth 32).setWidth 8 = x.1) ∧
    (∀ v ∈ [1#32, 2#32, 3#32, 4#32, 5#32, 6#32, 22#32, 23#32], step (command v) = .refused .operandNeverWritten) ∧
    step { ready 0x01#32 with wrote := { HostWrites.everything with txbuf := 0x7FFF#16 } } = .refused .operandNeverWritten ∧
    step { ready 0x04#32 with wrote := { HostWrites.everything with ticks := false } } = .refused .operandNeverWritten ∧
    step (decodeWith true [(491519, 491520)]) = .refused .operandNeverWritten ∧
    step (decodeWith false [(491520, 614400)]) = .refused .operandNeverWritten ∧
    after (step (decodeWith true [(491520, 614400)])) (fun t => t.seq) = some .deRun ∧
    after (step (ready 0x02#32)) (fun t => t.seq) = some .sdTx := by
  refine ⟨by simp only [Idle]; decide, ?_⟩
  simp only [List.mem_cons, List.not_mem_nil, or_false, forall_eq_or_imp, forall_eq]
  and_intros <;> rfl
theorem wit_CmdWriteThatStartsNothing :
    ((command 0x10#32).host = [.writeReg 0 0x10#32]) ∧
    ({ atE with host := [.writeReg 0 0x10#32] }.status = ⟨true, false, false, false⟩) ∧
    ({ dead with host := [.writeReg 0 0x10#32] }.status.fatal = true) := by decide
theorem wit_ReservedCodeRaises : ∀ op ∈ [0x00#8, 0x07#8, 0x0F#8, 0x18#8, 0xFF#8],
    Idle (command (op.setWidth 32)) ∧ (op.setWidth 32).setWidth 8 = op ∧
    (op = 0x00#8 ∨ (0x07#8 ≤ op ∧ op ≤ 0x0F#8) ∨ 0x18#8 ≤ op) := by
  simp only [Idle]; decide
theorem wit_ErrorExitsAreTheTable :
    Machine.Inv atPoll ∧ EngineTurn atPoll ∧ atPoll.status.busy = true ∧
    ∃ t, step atPoll = .next t ∧ (t.status.busy, t.err.code) = (false, 6#8) :=
  ⟨wit_inv_atPoll, .inl rfl, rfl, next_of (f := fun t => (t.status.busy, t.err.code)) (by decide)⟩
theorem wit_FatalAbsorbs :
    { dead with host := [.writeReg 0 0x10#32] }.status.fatal = true ∧ NoReset { dead with host := [.writeReg 0 0x10#32] } ∧
    ∃ t, step { dead with host := [.writeReg 0 0x10#32] } = .next t ∧ t.seq = .fatal :=
  ⟨rfl, by simp [NoReset], next_of (f := fun t => t.seq) (by decide)⟩
theorem wit_ResetLeavesTheGivenValues :
    { dead with host := [.reset] }.host = .reset :: [] ∧
    ∃ t, step { dead with host := [.reset] } = .next t ∧ t.seq = .idle :=
  ⟨rfl, next_of (f := fun t => t.seq) (by decide)⟩
theorem wit_CksumResult : ∀ n ∈ [0#8, 1#8, 16#8, 17#8, 255#8],
    Running 0x01#8 .ckRun (ckState n) ∧ (ckState n).txbuf.length = 16 ∧ (ckState n).latch.txlen = n := by
  simp only [Running]; decide
theorem wit_SendWritesTheFrame :
    (∀ x ∈ [(1#8, 0#8), (16#8, 16#8), (0#8, 0#8), (17#8, 0#8), (1#8, 17#8)], ∀ a ∈ [yes, no],
      Running 0x02#8 .sdTx (sdState .sdTx x.1 x.2 [a]) ∧ (sdState .sdTx x.1 x.2 [a]).txbuf.length = 16 ∧
      linkOk (sdState .sdTx x.1 x.2 [a]) = a.ok) := by
  exact fun _ _ _ _ => ⟨⟨rfl, rfl, rfl, rfl⟩, rfl, rfl⟩
theorem wit_SendResponse : ∀ r ∈ [[], [0x45#8], [0x45#8, 0x4F#8]],
    Running 0x02#8 .sdRx (sdState .sdRx 1#8 2#8 [gives r]) ∧
    r = readLink (sdState .sdRx 1#8 2#8 [gives r]).latch.resplen.toNat (sdState .sdRx 1#8 2#8 [gives r]) := by
  simp only [Running]; decide
theorem wit_ReceivedBytesAreReadable : (List.replicate 16 0x55#8).length ≤ 16 ∧ ([] : List Byte).length ≤ 16 := by decide
theorem wit_SetbaudChecksTheRate : ∀ v ∈ [0#32, 9600#32, 9601#32, 460800#32],
    Running 0x03#8 .bnCheck (bnState .bnCheck v []) ∧ (bnState .bnCheck v []).latch.rate = v := by
  exact fun _ _ => ⟨⟨rfl, rfl, rfl, rfl⟩, rfl⟩
theorem wit_SetbaudTransitions :
    ∀ q ∈ [Seq.bnCmd, .bnRate, .bnAck, .bnTest, .bnConf, .bnRoll], ∀ r ∈ [Rate.r9600, .r460800], ∀ a ∈ [yes, no],
      Running 0x03#8 q (bnState q (rateBps r) [a]) ∧ (bnState q (rateBps r) [a]).latch.rate = rateBps r ∧
      linkOk (bnState q (rateBps r) [a]) = a.ok := by
  simp only [Running]; decide
theorem wit_SetbaudJudgesTheReply : ∀ r ∈ [[], testOk, testOk ++ [0x12#8], testOk ++ [0x00#8], List.replicate 7 0x44#8],
    Running 0x03#8 .bnReply (bnState .bnReply 115200#32 [gives r]) ∧
    r = readLink 7 (bnState .bnReply 115200#32 [gives r]) := by
  simp only [Running]; decide

/-- BN1 and BN4, from the `CMD` write. -/
def handshake (reply : List Byte) : State :=
  { ready 0x03#32 with argRate := rateBps .r115200, answers := [yes, yes, gives [0x42#8, 0x34#8], yes, gives reply, yes] }

theorem wit_HandshakeSucceeds :
    Idle (handshake (testOk ++ [0x12#8])) ∧ (handshake (testOk ++ [0x12#8])).host = [.writeReg 0 0x03#32] ∧
    (handshake (testOk ++ [0x12#8])).argRate = rateBps .r115200 ∧
    (handshake (testOk ++ [0x12#8])).wrote.rate = true ∧ (testOk ++ [0x12#8]).length = 7 ∧
    (testOk ++ [0x12#8]).take 6 = [0x54#8, 0x65#8, 0x73#8, 0x74#8, 0x4F#8, 0x6B#8] ∧
    (handshake (testOk ++ [0x12#8])).answers =
      [⟨true, []⟩, ⟨true, []⟩, ⟨true, [0x42#8, 0x34#8]⟩, ⟨true, []⟩, ⟨true, testOk ++ [0x12#8]⟩, ⟨true, []⟩] ++ [] := by
  simp only [Idle]; decide
theorem wit_HandshakeRollsBack : ∀ reply ∈ [[], testOk, List.replicate 7 0x44#8],
    Idle (handshake reply) ∧ (handshake reply).host = [.writeReg 0 0x03#32] ∧
    (handshake reply).argRate = rateBps .r115200 ∧ (handshake reply).wrote.rate = true ∧ reply.length ≤ 7 ∧
    (reply.length = 7 → reply.take 6 ≠ [0x54#8, 0x65#8, 0x73#8, 0x74#8, 0x4F#8, 0x6B#8]) ∧
    (handshake reply).answers =
      [⟨true, []⟩, ⟨true, []⟩, ⟨true, [0x42#8, 0x34#8]⟩, ⟨true, []⟩, ⟨true, reply⟩, ⟨true, []⟩] ++ [] := by
  simp only [Idle]; decide
theorem wit_StartexpWritesTheExposureFrame :
    Running 0x04#8 .exTx (exState .exTx 100#32 0#32 [yes]) ∧ linkOk (exState .exTx 100#32 0#32 [yes]) = true := by
  simp only [Running]; decide
theorem wit_ReadyPollOrder : ∀ r ∈ [[], [0x44#8], [0x64#8]], ∀ polls ∈ [2#32, 3#32],
    Running 0x04#8 .exWait (exState .exWait 3#32 polls [gives r]) ∧
    r = readLink 1 (exState .exWait 3#32 polls [gives r]) := by
  intro r hr polls _
  refine ⟨⟨rfl, rfl, rfl, rfl⟩, ?_⟩
  simp only [List.mem_cons, List.not_mem_nil, or_false] at hr
  rcases hr with rfl | rfl | rfl <;> rfl

/-- RW6 and RW4. -/
theorem wit_ReadyWaitTimesOut : ∀ replies ∈ [[], [[0x45#8], [], [0x64#8]]],
    Running 0x04#8 .exWait (exState .exWait (BitVec.ofNat 32 replies.length) 0#32 (replies.map gives)) ∧
    (exState .exWait (BitVec.ofNat 32 replies.length) 0#32 (replies.map gives)).host = [] ∧
    (exState .exWait (BitVec.ofNat 32 replies.length) 0#32 (replies.map gives)).cancel = false ∧
    0 + replies.length = (BitVec.ofNat 32 replies.length).toNat ∧ (∀ r ∈ replies, r.take 1 ≠ [0x44#8]) ∧
    replies.map gives = replies.map (fun r => (⟨true, r⟩ : Answer)) ++ [] := by
  simp only [Running]; decide

/-- RW5. -/
theorem wit_ReadyWaitEndsAtD :
    Running 0x04#8 .exWait (exState .exWait 3#32 0#32 [gives [0x45#8], gives [0x45#8], gives [0x44#8]]) ∧
    0 + [[0x45#8], [0x45#8]].length < (3#32).toNat ∧ (∀ r ∈ [[0x45#8], [0x45#8]], r.take 1 ≠ [0x44#8]) ∧
    [0x44#8].take 1 = [0x44#8] ∧
    (exState .exWait 3#32 0#32 [gives [0x45#8], gives [0x45#8], gives [0x44#8]]).answers =
      [[0x45#8], [0x45#8]].map (fun r => ⟨true, r⟩) ++ ⟨true, [0x44#8]⟩ :: [] := by
  simp only [Running]; decide
theorem wit_ReadimgBegins :
    (Running 0x05#8 .riX (riState .riX 0#7 0#3 [yes]) ∧ linkOk (riState .riX 0#7 0#3 [yes]) = true) ∧
    (Running 0x05#8 .riSync (riState .riSync 0#7 0#3 [gives [0xA5#8]]) ∧
      (readLink 1 (riState .riSync 0#7 0#3 [gives [0xA5#8]])).length = 1) ∧
    (Running 0x05#8 .riSync (riState .riSync 0#7 0#3 [gives []]) ∧
      readLink 1 (riState .riSync 0#7 0#3 [gives []]) = []) := by
  simp only [Running]; decide

/-- The payload of zeros with trailer `t`: LR1 and LR2. -/
def zeros (t : Byte) : List Byte := List.replicate 8192 0#8 ++ [t]

theorem lrc_zeros (n : Nat) : lrc (List.replicate n 0#8) = 0#8 := by
  induction n with
  | zero => rfl
  | succ n ih => rw [List.replicate_succ, lrc, List.foldl_cons]; simpa [lrc] using ih
theorem append_zeros (n : Nat) (t : Byte) :
    (List.replicate n 0#8 ++ [t]).length = n + 1 ∧ (List.replicate n 0#8 ++ [t]).take n = List.replicate n 0#8 ∧
    (List.replicate n 0#8 ++ [t]).getD n 0#8 = t := by simp
theorem zeros_length (t : Byte) : (zeros t).length = 8193 := (append_zeros 8192 t).1
theorem zeros_payload (t : Byte) : (zeros t).take 8192 = List.replicate 8192 0#8 := (append_zeros 8192 t).2.1
theorem zeros_trailer (t : Byte) : (zeros t).getD 8192 0#8 = t := (append_zeros 8192 t).2.2
theorem zeros_good : goodRead (zeros 0#8) := by
  refine ⟨zeros_length _, ?_⟩
  rw [zeros_payload, lrc_zeros, zeros_trailer]
theorem zeros_bad : badRead (zeros 1#8) := by
  refine ⟨zeros_length _, ?_⟩
  rw [zeros_payload, lrc_zeros, zeros_trailer]
  decide
theorem zeros_read (t : Byte) (q : Seq) (b : BitVec 7) (a : BitVec 3) (rest : List Answer) :
    zeros t = readLink 8193 (riState q b a (gives (zeros t) :: rest)) :=
  (List.take_of_length_le (zeros_length t).le).symm

theorem wit_BlockReadAttempt :
    Running 0x05#8 .riBlk (riState .riBlk 59#7 5#3 [gives (zeros 0#8)]) ∧
    Running 0x05#8 .riBlk (riState .riBlk 0#7 4#3 [gives (zeros 1#8)]) ∧
    zeros 0#8 = readLink 8193 (riState .riBlk 59#7 5#3 [gives (zeros 0#8)]) ∧
    zeros 1#8 = readLink 8193 (riState .riBlk 0#7 4#3 [gives (zeros 1#8)]) ∧
    (riState .riBlk 59#7 5#3 [gives (zeros 0#8)]).cancel = false ∧ goodRead (zeros 0#8) ∧ badRead (zeros 1#8) ∧
    { riState .riBlk 0#7 0#3 [] with cancel := true }.cancel = true :=
  ⟨⟨rfl, rfl, rfl, rfl⟩, ⟨rfl, rfl, rfl, rfl⟩, zeros_read _ _ _ _ _, zeros_read _ _ _ _ _, rfl, zeros_good, zeros_bad, rfl⟩
theorem wit_ShortBlockRead : ∀ n, n ≤ 8192 →
    (Running 0x05#8 .riBlk (riState .riBlk 59#7 5#3 [gives (List.replicate n 0#8)]) ∧
      (riState .riBlk 59#7 5#3 [gives (List.replicate n 0#8)]).cancel = false ∧
      List.replicate n 0#8 = readLink 8193 (riState .riBlk 59#7 5#3 [gives (List.replicate n 0#8)]) ∧
      (List.replicate n 0#8).length < 8193) ∧
    ∀ a : BitVec 3, Running 0x05#8 .riBlk { riState .riBlk 0#7 a [] with cancel := true } ∧
      { riState .riBlk 0#7 a [] with cancel := true }.att = a := fun n hn =>
  ⟨⟨⟨rfl, rfl, rfl, rfl⟩, rfl, (List.take_of_length_le (by simp; omega)).symm, by simp; omega⟩,
    fun _ => ⟨⟨rfl, rfl, rfl, rfl⟩, rfl⟩⟩
theorem wit_BlockIsAcknowledgedOrRetried :
    linkOk (riState .riAck 59#7 0#3 [yes]) = true ∧ Running 0x05#8 .riAck (riState .riAck 59#7 0#3 [yes]) ∧
    linkOk (riState .riRetry 0#7 4#3 [yes]) = true ∧ Running 0x05#8 .riRetry (riState .riRetry 0#7 4#3 [yes]) := by
  simp only [Running]; decide
theorem wit_AbortedBlockIsSubstituted : Running 0x05#8 .riAbort atAbort ∧ linkOk atAbort = true := by
  simp only [Running]; decide
theorem wit_ReadimgEnds :
    (∀ r ∈ [[], List.replicate 4 0#8, List.replicate 5 0#8], r = readLink 5 (riState .riEpi 60#7 0#3 [gives r]) ∧
      Running 0x05#8 .riEpi (riState .riEpi 60#7 0#3 [gives r])) ∧
    Running 0x05#8 .riDec (riState .riDec 60#7 0#3 []) := by
  simp only [Running]; decide
theorem wit_SixMismatchesSubstituteTheBlock :
    let s := riState .riBlk 7#7 0#3 (attemptAnswers (List.replicate 6 (zeros 1#8)))
    Running 0x05#8 .riBlk s ∧ s.att = 0#3 ∧ s.cancel = false ∧ s.host = [] ∧
    (List.replicate 6 (zeros 1#8)).length = 6 ∧ (∀ r ∈ List.replicate 6 (zeros 1#8), badRead r) ∧
    s.answers = attemptAnswers (List.replicate 6 (zeros 1#8)) ++ [] :=
  ⟨⟨rfl, rfl, rfl, rfl⟩, rfl, rfl, rfl, by simp,
    fun _ hr => List.eq_of_mem_replicate hr ▸ zeros_bad, (List.append_nil _).symm⟩
theorem wit_MatchingReadIsAccepted : ∀ n, n ≤ 5 →
    let s := riState .riBlk 7#7 0#3 (attemptAnswers (List.replicate n (zeros 1#8) ++ [zeros 0#8]))
    Running 0x05#8 .riBlk s ∧ s.att = 0#3 ∧ s.cancel = false ∧ s.host = [] ∧
    (List.replicate n (zeros 1#8)).length ≤ 5 ∧ (∀ r ∈ List.replicate n (zeros 1#8), badRead r) ∧
    goodRead (zeros 0#8) ∧ s.answers = attemptAnswers (List.replicate n (zeros 1#8) ++ [zeros 0#8]) ++ [] :=
  fun n hn => ⟨⟨rfl, rfl, rfl, rfl⟩, rfl, rfl, rfl, by simpa using hn,
    fun _ hr => List.eq_of_mem_replicate hr ▸ zeros_bad, zeros_good, (List.append_nil _).symm⟩
theorem wit_CleanTransferCompletes : ∀ crop : Bool,
    let replies := List.replicate (if crop then 60 else 75) (zeros 0#8)
    let s := { riState .riX 0#7 0#3
      ([⟨true, []⟩, ⟨true, [0xA5#8]⟩] ++ attemptAnswers replies ++ [⟨true, List.replicate 5 0#8⟩] ++ []) with
      latch := { Latches.reset with op := 0x05#8, crop := crop } }
    Running 0x05#8 .riX s ∧ s.cancel = false ∧ s.host = [] ∧ Memory.wf s.raw = true ∧
    replies.length = (if s.latch.crop then 60 else 75) ∧ (∀ r ∈ replies, goodRead r) ∧
    [0xA5#8].length = 1 ∧ (List.replicate 5 0#8).length = 5 :=
  fun _ => ⟨⟨rfl, rfl, rfl, rfl⟩, rfl, rfl, rfl, List.length_replicate,
    fun _ hr => List.eq_of_mem_replicate hr ▸ zeros_good, rfl, rfl⟩
theorem wit_DecodedImageIndex : ∀ cols ∈ [1, 512, 640],
    (List.replicate (2 * (480 * cols)) 0#8).length = 2 * (480 * cols) ∧ 479 < 480 ∧ cols - 1 < cols := by
  intro cols h
  refine ⟨List.length_replicate, by decide, ?_⟩
  revert cols; decide
theorem wit_DecodeOperation :
    Running 0x06#8 .deRun (running 0x06#8 .deRun []) ∧ Memory.wf (running 0x06#8 .deRun []).raw = true := by
  simp only [Running]; decide
theorem wit_SingleCommandsComplete : ∀ op ∈ [0x10#8, 0x11#8, 0x12#8, 0x13#8, 0x14#8, 0x15#8, 0x16#8, 0x17#8],
    Running op .dcTx (running op .dcTx [yes]) ∧ linkOk (running op .dcTx [yes]) = true := by
  simp only [Running]; decide
theorem wit_TwoByteReplies : ∀ op ∈ [0x10#8, 0x15#8], ∀ r ∈ [[], [0x4F#8], [0x07#8, 0xFF#8], [0x08#8, 0x4F#8], [0xFF#8, 0xFF#8]],
    r = readLink 2 (running op .dcRx [gives r]) ∧ Running op .dcRx (running op .dcRx [gives r]) := by
  simp only [Running]; decide

/-- Where frame `i` is due. -/
def dueState (i : Instr) (a : Answer) : State := placeFrame i { bench with answers := [a] }

theorem due_dueState (i : Instr) (a : Answer) (hw : i.wellFormed = true) (hi : isFrame i) : due i (dueState i a) := by
  cases i
  case frameT ticks light =>
    refine ⟨⟨rfl, rfl, rfl, rfl⟩, ?_, rfl⟩
    simp only [Instr.wellFormed, decide_eq_true_eq] at hw
    exact Nat.mod_eq_of_lt hw
  case frameK => exact .inl ⟨rfl, rfl, rfl, rfl⟩
  case frameG0 | frameG1 | frameU0 | frameU1 | frameB0 | frameB1 | frameB2 | frameB3 | frameB4 | frameB5 | frameB6 =>
    exact ⟨⟨rfl, rfl, rfl, rfl⟩, rfl⟩
  case frameE | frameO | frameC | frameA | frameV | frameTest | frameKconf | frameX | frameR | frameS =>
    exact ⟨rfl, rfl, rfl, rfl⟩
  all_goals exact absurd hi (by simp [isFrame, encode])
theorem wit_DueFrameIsWritten : ∀ i : Instr, i.wellFormed = true → isFrame i →
    due i (dueState i yes) ∧ linkOk (dueState i yes) = true :=
  fun i hw hi => ⟨due_dueState i yes hw hi, by cases i <;> rfl⟩
theorem wit_DueFrameIsWritten_second_K : due .frameK (riState .riAck 59#7 0#3 [yes]) ∧
    linkOk (riState .riAck 59#7 0#3 [yes]) = true := ⟨.inr ⟨rfl, rfl, rfl, rfl⟩, rfl⟩
theorem wit_FailedWriteIsFatal : ∀ i : Instr, i.wellFormed = true → isFrame i →
    due i (dueState i no) ∧ linkOk (dueState i no) = false :=
  fun i hw hi => ⟨due_dueState i no hw hi, by cases i <;> rfl⟩
theorem wit_FailedWriteIsFatal_second_K : due .frameK (riState .riAck 74#7 5#3 [no]) ∧
    linkOk (riState .riAck 74#7 5#3 [no]) = false ∧ inBlock (riState .riAck 74#7 5#3 [no]).seq = true :=
  ⟨.inr ⟨rfl, rfl, rfl, rfl⟩, rfl, rfl⟩
theorem wit_FrameNotDueIsRefused : isFrame .frameE ∧ due .frameE atE ∧ ¬ due .frameE atAbort := by
  refine ⟨by unfold isFrame; decide, ⟨rfl, rfl, rfl, rfl⟩, ?_⟩
  rintro ⟨-, -, h, -⟩
  exact absurd h (by decide)
theorem wit_EveryWriteIsAFrame : Machine.Inv atE ∧
    ∃ t, step atE = .next t ∧ t.traffic = [] ++ [.write [0x45#8, 0x3A#8] true] :=
  ⟨wit_inv_atE, next_of (f := fun t => t.traffic) (by decide)⟩
theorem wit_StepKeepsTheInvariant : Machine.Inv atE ∧ ∃ t, step atE = .next t ∧ t.seq = .dcRx :=
  ⟨wit_inv_atE, next_of (f := fun t => t.seq) (by decide)⟩
theorem wit_StepKeepsTheSubstitutionRecord : Machine.Inv atAbort ∧ SubstInv atAbort ∧
    ∃ t, step atAbort = .next t ∧ t.substCnt = 1#7 :=
  ⟨wit_inv_atAbort, wit_substInv_atAbort, next_of (f := fun t => t.substCnt) (by decide)⟩
theorem wit_EngineNeverStops :
    (Machine.Inv atE ∧ EngineTurn atE) ∧ (Machine.Inv atPollWithHost ∧ EngineTurn atPollWithHost) ∧
    (Machine.Inv (command 0x07#32) ∧ (command 0x07#32).host = .writeReg 0 0x07#32 :: [] ∧
      OperandsWritten 0x07#8 (command 0x07#32)) ∧
    (Machine.Inv (ready 0x06#32) ∧ (ready 0x06#32).host = .writeReg 0 0x06#32 :: [] ∧ Idle (ready 0x06#32) ∧
      OperandsWritten 0x06#8 (ready 0x06#32)) :=
  ⟨⟨wit_inv_atE, .inl rfl⟩, ⟨wit_inv_atPollWithHost, .inr ⟨[], rfl⟩⟩,
    ⟨wit_inv_command, rfl, by simp [OperandsWritten]⟩, ⟨wit_inv_ready, rfl, ⟨rfl, rfl⟩, written_ready _ _⟩⟩
theorem wit_OneTransportCallAStep : (∃ t, step atE = .next t ∧ (t.traffic.length, t.draws) = (1, 0)) ∧
    ∃ t, step { atE with answers := [], seq := .dcRx } = .next t ∧ (t.traffic.length, t.draws) = (1, 1) :=
  ⟨next_of (f := fun t => (t.traffic.length, t.draws)) (by decide),
    ⟨_, rfl, by simp only [pingRx]; split <;> rfl⟩⟩
theorem wit_StickyBitsAndLogOnlyGrow : NoReset atAbort ∧ ∃ t, step atAbort = .next t ∧ (t.esticky, t.log.length) = (0x8#32, 1) :=
  ⟨by simp [NoReset, atAbort, riState, running, bench, State.reset],
    next_of (f := fun t => (t.esticky, t.log.length)) (by decide)⟩
theorem wit_OnlyTheirOwnersWriteRegisters :
    NoReset atE ∧ EngineTurn atE ∧ ¬ (atE.status.busy = true ∧ atE.latch.op = 0x03#8) ∧
    ¬ (atE.status.busy = true ∧ atE.latch.op = 0x01#8) ∧ ¬ (atE.status.busy = true ∧ atE.latch.op = 0x15#8) ∧
    ∃ t, step atE = .next t ∧ t.seq = .dcRx :=
  ⟨by simp [NoReset, atE, running, bench, State.reset], .inl rfl, by decide, by decide, by decide,
    next_of (f := fun t => t.seq) (by decide)⟩
theorem wit_RunningOperationReadsItsLatches : atPoll.status.busy = true ∧ EngineTurn atPoll ∧
    ∃ t, step atPoll = .next t ∧ t.seq = .idle := ⟨rfl, .inl rfl, next_of (f := fun t => t.seq) (by decide)⟩
theorem wit_CancelIsSampledAtTwoPoints : atE.seq ≠ .exWait ∧ atE.seq ≠ .riBlk ∧ EngineTurn atE ∧
    ∃ t, step atE = .next t ∧ t.seq = .dcRx :=
  ⟨by decide, by decide, .inl rfl, next_of (f := fun t => t.seq) (by decide)⟩
theorem wit_HostWritesAndReadsRegisters :
    (∀ no ∈ [1, 2, 3, 4, 5, 6, 7, 8, 9, 16, 17, 32, 47, 64, 79],
      (host (.writeReg no 0xFFFFFFFF#32)).host = .writeReg no 0xFFFFFFFF#32 :: [] ∧
      (host (.writeReg no 0xFFFFFFFF#32)).status.busy = false ∧ (regRead no bench).isSome = true) ∧
    (host (.readReg 17)).host = .readReg 17 :: [] ∧ regRead 17 (host (.readReg 17)) = some 0#32 ∧
    ∀ level, (host (.setCancel level)).host = .setCancel level :: [] := by decide
theorem wit_MemoryPortReadsWhatWasWritten :
    (bench.status.busy = false ∧ 614399 < 614400 ∧
      { bench with host := [.writeRaw 614399 0x5A#8, .readRaw 614399] }.host =
        .writeRaw 614399 0x5A#8 :: .readRaw 614399 :: []) ∧
    ((host (.readRaw 614399)).host = .readRaw 614399 :: [] ∧ (host (.readImg 307199)).host = .readImg 307199 :: []) ∧
    (307199 < 307200 ∧ { bench with host := [.writeImg 0 0x5A5A#16, .readImg 0] }.host =
        .writeImg 0 0x5A5A#16 :: .readImg 0 :: []) := by decide
theorem wit_ForbiddenHostAccessesStop :
    (∀ a ∈ [HostAct.writeRaw 0 1#8, .readRaw 614399, .writeImg 0 1#16, .readImg 307199],
      step { atE with host := [a] } = .refused .memoryWhileBusy) ∧
    (∀ no ∈ [32, 47], step { atE with host := [.writeReg no 1#32] } = .refused .txBufWhileBusy) ∧
    (∀ a ∈ [HostAct.writeRaw 614400 1#8, .readRaw 614400], step (host a) = .fault (.noRawByte 614400)) ∧
    (∀ a ∈ [HostAct.writeImg 307200 1#16, .readImg 307200], step (host a) = .fault (.noImgWord 307200)) ∧
    (∀ no ∈ [18, 31, 48, 63, 80], step (host (.readReg no)) = .fault (.noRegister no) ∧
      step (host (.writeReg no 1#32)) = .fault (.noRegister no)) := by
  simp only [List.mem_cons, List.not_mem_nil, or_false, forall_eq_or_imp, forall_eq]
  and_intros <;> rfl

end Sys2Proof.Tests
end

section
/-! PROOFS. The host's side of a step: which step is an access of the host, what each access leaves, and the obligations
about the host port, `reset` and `FATAL`. -/

namespace Sys2Proof.Machine

-- A step that is a host access

/-- A host action other than a `CMD` write or the engine's turn fetches no instruction. -/
theorem fetch_of_access {s : State} {a : HostAct} {rest : List HostAct} (hh : s.host = a :: rest)
    (hc : ∀ v, a ≠ .writeReg 0 v) (he : a ≠ .engine) : fetch s = none := by
  unfold fetch
  split
  · exact absurd (List.cons.inj (hh.symm.trans ‹_›)).1 (hc _)
  · exact absurd (List.cons.inj (hh.symm.trans ‹_›)).1 he
  · rw [hh] at *; contradiction
  · rfl

/-- A step that fetches nothing is the access at the head of the host's list. -/
theorem step_of_fetch_none {s : State} {a : HostAct} {rest : List HostAct} (hf : fetch s = none)
    (hh : s.host = a :: rest) : step s = hostPort a { s with host := rest } := by
  have hp : popHost s = { s with host := rest } := by rw [popHost, hh, List.tail_cons]
  simp only [step, hf, portStep, hh, hp]

/-- A step at a host action that is neither a `CMD` write nor the engine's turn is that access. -/
theorem step_of_access {s : State} {a : HostAct} {rest : List HostAct} (hh : s.host = a :: rest)
    (hc : ∀ v, a ≠ .writeReg 0 v) (he : a ≠ .engine) : step s = hostPort a { s with host := rest } :=
  step_of_fetch_none (fetch_of_access hh hc he) hh

theorem memoryPort_busy {s : State} (hb : s.status.busy = true) (inside : Bool) (f : Fault) (access : State → State) :
    memoryPort inside f access s = .refused .memoryWhileBusy := by
  simp [memoryPort, hb]

theorem memoryPort_inside {s : State} (hb : s.status.busy = false) (f : Fault) (access : State → State) :
    memoryPort true f access s = .next (access s) := by
  simp [memoryPort, hb]

theorem memoryPort_outside {s : State} (hb : s.status.busy = false) (f : Fault) (access : State → State) :
    memoryPort false f access s = .fault f := by
  simp [memoryPort, hb]

-- The register file (10_state R10)

/-- The registers above the packed ones: `TXBUF`, `RXBUF`, and no other number (log 22). -/
theorem regRead_buffers {no : Nat} (h : 18 ≤ no) (s : State) :
    regRead no s =
      if 32 ≤ no ∧ no < 48 then some ((s.txbuf.getD (no - 32) 0#8).setWidth 32)
      else if 64 ≤ no ∧ no < 80 then some ((rxByte (no - 64) s).setWidth 32)
      else none := by
  unfold regRead
  split
  case h_19 => rfl
  all_goals omega

theorem regRead_txbuf {k : Nat} (hk : k < 16) (s : State) :
    regRead (32 + k) s = some ((s.txbuf.getD k 0#8).setWidth 32) := by
  rw [regRead_buffers (by omega), if_pos (by omega), Nat.add_sub_cancel_left]

theorem regRead_rxbuf {k : Nat} (hk : k < 16) (s : State) :
    regRead (64 + k) s = some ((rxByte k s).setWidth 32) := by
  rw [regRead_buffers (by omega), if_neg (by omega), if_pos (by omega), Nat.add_sub_cancel_left]

theorem regRead_none {no : Nat} (h : 18 ≤ no ∧ no < 32 ∨ 48 ≤ no ∧ no < 64 ∨ 80 ≤ no) (s : State) :
    regRead no s = none := by
  rw [regRead_buffers (by omega), if_neg (by omega), if_neg (by omega)]

/-- A write to a register that is neither an operand register nor `CMD` nor `TXBUF`: nothing if the register exists. -/
theorem regWrite_other {no : Nat} (h : no ∉ [0, 4, 5, 6, 7, 16]) (ht : ¬ (32 ≤ no ∧ no < 48)) (v : Word32) (s : State) :
    regWrite no v s = if (regRead no s).isSome then .next s else .fault (.noRegister no) := by
  unfold regWrite
  split
  case h_7 n _ => rw [if_neg (by simpa only [Config.txBufBytes] using ht)]
  all_goals simp at h

/-- A write to `TXBUF`: refused while busy (70_reset R242). -/
theorem regWrite_txbuf {no : Nat} (hl : 32 ≤ no) (hr : no < 48) (v : Word32) (s : State) :
    regWrite no v s =
      if s.status.busy then .refused .txBufWhileBusy else .next (writeTx (no - 32) (v.setWidth 8) s) := by
  unfold regWrite
  split
  case h_7 n _ => rw [if_pos (by simp only [Config.txBufBytes]; omega)]
  all_goals omega

/-- The bits of a set with one more member. -/
theorem getLsbD_or_bit {w : Nat} (x : BitVec w) (k i : Nat) (hi : i < w) :
    (x ||| (1#w <<< k)).getLsbD i = (decide (i = k) || x.getLsbD i) := by
  rw [BitVec.getLsbD_or, BitVec.getLsbD_shiftLeft, BitVec.getLsbD_one, Bool.or_comm]
  by_cases h : i = k
  · simp [h]; omega
  · have : i < k ∨ i - k ≠ 0 := by omega
    rcases this with h' | h' <;> simp [h, h']

-- What an access of the host can do

/-- Every host action that starts no operation and is not `reset`, by what it leaves (10_state R10, R31; 20_memory
R41). -/
inductive HostAccess (s : State) : State → Prop
  | nothing : HostAccess s s
  | overrun : s.status.fatal = false → s.status.busy = true → HostAccess s (overrun s)
  | argTicks (v : BitVec 24) : HostAccess s { s with argTicks := v, wrote := { s.wrote with ticks := true } }
  | argFlags (v : BitVec 3) : HostAccess s { s with argFlags := v, wrote := { s.wrote with flags := true } }
  | argRate (v : Word32) : HostAccess s { s with argRate := v, wrote := { s.wrote with rate := true } }
  | argLen (v : BitVec 16) : HostAccess s { s with argLen := v, wrote := { s.wrote with len := true } }
  | readyMax (v : Word32) : HostAccess s { s with cfgReadyMax := v }
  | txbuf (k : Nat) (v : Byte) : HostAccess s (writeTx k v s)
  | read (v : Word32) : HostAccess s (handOver v s)
  | raw (a : Nat) (v : Byte) : s.status.busy = false → a < rawBytes → HostAccess s (writeRaw a v s)
  | img (a : Nat) (v : Word16) : s.status.busy = false → a < imgWords → HostAccess s (writeImg a v s)
  | cancel (level : Bool) : HostAccess s { s with cancel := level }

/-- A register write is one of the accesses. -/
theorem regWrite_access {no : Nat} {v : Word32} {s t : State} (h : regWrite no v s = .next t) : HostAccess s t := by
  rcases regWrite_next h with ⟨-, rfl⟩ | ⟨-, rfl⟩ | ⟨-, rfl⟩ | ⟨-, rfl⟩ | ⟨-, rfl⟩ | ⟨-, rfl⟩ | ⟨-, -, -, rfl⟩ | rfl
  · unfold cmdIgnored
    split
    · exact .nothing
    · split
      · exact .overrun (by simp_all) (by assumption)
      · exact .nothing
  exacts [.argTicks _, .argFlags _, .argRate _, .argLen _, .readyMax _, .txbuf _ _, .nothing]

/-- Everything the host port can do that gives a next state: `reset`, or one of the accesses. -/
theorem hostPort_next {a : HostAct} {s t : State} (h : hostPort a s = .next t) :
    (a = .reset ∧ t = resetNow s) ∨ HostAccess s t := by
  cases a with
  | engine => cases h; exact .inr .nothing
  | writeReg no v => exact .inr (regWrite_access h)
  | readReg no =>
    simp only [hostPort] at h
    split at h <;> cases h
    exact .inr (.read _)
  | writeRaw addr v =>
    obtain ⟨hb, hi, rfl⟩ := memoryPort_next h
    exact .inr (.raw addr v hb (of_decide_eq_true hi))
  | readRaw addr =>
    obtain ⟨-, -, rfl⟩ := memoryPort_next h
    exact .inr (.read _)
  | writeImg addr v =>
    obtain ⟨hb, hi, rfl⟩ := memoryPort_next h
    exact .inr (.img addr v hb (of_decide_eq_true hi))
  | readImg addr =>
    obtain ⟨-, -, rfl⟩ := memoryPort_next h
    exact .inr (.read _)
  | setCancel level => cases h; exact .inr (.cancel level)
  | reset => cases h; exact .inl ⟨rfl, rfl⟩

/-- Everything a step can do, sorted by who acts; each disjunct says when it can happen. -/
theorem step_kinds {s t : State} (h : step s = .next t) :
    (¬ NoReset s ∧ t = resetNow (popHost s)) ∨
    HostAccess (popHost s) t ∨
    (Idle s ∧ ∃ op i q, (op, i, q) ∈ hostOps ∧ operandsWritten op s = true ∧ t = start op q (popHost s)) ∨
    (Idle s ∧ ∃ op, t = startReserved op (popHost s)) ∨
    (EngineTurn s ∧ Transition (popHost s) t) := by
  rcases step_cases h with ⟨hh, ht⟩ | ⟨a, rest, hh, hp⟩ | ⟨hf, hb, rfl⟩ | ⟨hi, i, op, q, hm, hw, ht⟩ | hr | ht
  · have hpop : popHost s = s := by rw [popHost, hh, List.tail_nil, ← hh]
    rw [ht, hpop]
    exact .inr (.inl .nothing)
  · rcases hostPort_next hp with ⟨rfl, rfl⟩ | ha
    · exact .inl ⟨by simp [NoReset, hh], rfl⟩
    · exact .inr (.inl ha)
  · exact .inr (.inl (.overrun hf hb))
  · exact .inr (.inr (.inl ⟨hi, op, i, q, hm, hw, ht⟩))
  · exact .inr (.inr (.inr (.inl hr)))
  · exact .inr (.inr (.inr (.inr ht)))

/-- Only an engine that is busy and not fatal makes a transition. -/
theorem Transition.busy {s t : State} (h : Transition s t) : s.status.busy = true ∧ s.status.fatal = false := by
  cases h <;> exact ⟨(‹Running _ _ _›).1, (‹Running _ _ _›).2.1⟩

end Sys2Proof.Machine

-- The obligations about the host's side

open Sys2Proof Sys2Proof.Machine

/-- Settles O7, from the three branches of `step`. -/
theorem stepRunsTheDecodedInstruction : Obligations.StepRunsTheDecodedInstruction := by
  intro s
  refine ⟨fun bytes i hf hd => ?_, fun op e hf hd hb => ?_, fun hf hh => ?_, fun a rest => step_of_fetch_none⟩
  · simp only [step, hf, hd]
  · simp [step, hf, hd, undecoded, hb]
  · simp [step, hf, portStep, hh]

/-- Settles O16: without `reset` the only steps left to a fatal engine are the host's accesses. -/
theorem fatalAbsorbs : Obligations.FatalAbsorbs := by
  intro s t hf hr h
  rcases step_kinds h with ⟨hn, -⟩ | ha | ⟨⟨-, hi⟩, -⟩ | ⟨⟨-, hi⟩, -⟩ | ⟨-, ht⟩
  · exact absurd hr hn
  · cases ha with
    | overrun hf' _ => exact absurd (hf.symm.trans hf') (by decide)
    | _ => rfl
  · exact absurd (hf.symm.trans hi) (by decide)
  · exact absurd (hf.symm.trans hi) (by decide)
  · exact absurd (hf.symm.trans ht.busy.2) (by decide)

/-- Settles O17: `resetNow` has the values of `State.reset` but for what is outside the engine. -/
theorem resetLeavesTheGivenValues : Obligations.ResetLeavesTheGivenValues := by
  have hs : ∀ (s : State) (rest : List HostAct), s.host = .reset :: rest →
      step s = .next (resetNow { s with host := rest }) :=
    fun s rest hh => step_of_access hh (by simp) (by simp)
  refine ⟨?_, fun s rest hh => ⟨_, hs s rest hh, rfl, rfl, rfl, rfl, rfl, rfl⟩⟩
  have unwritten : ∀ a : Nat, Ranges.has [(0, 614400)] a = true ↔ a < 614400 := by simp [Ranges.has]
  rintro t (rfl | ⟨s, rest, hh, h⟩)
  · exact ⟨rfl, rfl, rfl, rfl, rfl, rfl, rfl, rfl, rfl, rfl, rfl, rfl, rfl, rfl, rfl, rfl, rfl, rfl, rfl, unwritten⟩
  · cases (hs s rest hh).symm.trans h
    exact ⟨rfl, rfl, rfl, rfl, rfl, rfl, rfl, rfl, rfl, rfl, rfl, rfl, rfl, rfl, rfl, rfl, rfl, rfl, rfl, unwritten⟩

/-- Settles O58, register by register. -/
theorem hostWritesAndReadsRegisters : Obligations.HostWritesAndReadsRegisters := by
  intro s no v rest
  refine ⟨fun hh => ?_, fun hh w hw => ?_, fun level hh => step_of_access hh (by simp) (by simp)⟩
  · have hs : no ≠ 0 → step s = regWrite no v { s with host := rest } := fun h0 =>
      step_of_access hh (by simp [h0]) (by simp)
    refine ⟨fun h => ?_, fun h => ?_, fun h => ?_, fun h => ?_, fun h => ?_, fun h => ?_, fun hl hr hb => ?_⟩
    · subst h; exact hs (by decide)
    · subst h; exact hs (by decide)
    · subst h; exact hs (by decide)
    · subst h; exact hs (by decide)
    · subst h; exact hs (by decide)
    · have readable : (regRead no { s with host := rest }).isSome = true := by
        rcases h with h | ⟨h1, h2⟩
        · fin_cases h <;> rfl
        · obtain ⟨k, rfl⟩ := Nat.exists_eq_add_of_le h1
          rw [regRead_rxbuf (by omega)]; rfl
      have other : no ∉ [0, 4, 5, 6, 7, 16] ∧ ¬ (32 ≤ no ∧ no < 48) := by
        simp only [List.mem_cons, List.not_mem_nil, or_false] at h ⊢
        omega
      rw [hs (by rintro rfl; simp at other), regWrite_other other.1 other.2, if_pos readable]
    · refine ⟨s.wrote.txbuf ||| (1#16 <<< (no - 32)), fun k => getLsbD_or_bit _ _ k, ?_⟩
      rw [hs (by omega), regWrite_txbuf hl hr, if_neg (by simp [hb])]
      rfl
  · have hw' : regRead no { s with host := rest } = some w := hw
    rw [step_of_access hh (by simp) (by simp)]
    simp only [hostPort, hw']
    rfl

/-- Settles O60: the guards of the memory port, of `TXBUF` and of the register table. -/
theorem forbiddenHostAccessesStop : Obligations.ForbiddenHostAccessesStop := by
  intro s rest a
  refine ⟨fun hb => ⟨fun v hh => ?_, fun hh => ?_, fun v hh => ?_, fun hh => ?_, fun v hl hr hh => ?_⟩,
    fun hb => ⟨fun v ha hh => ?_, fun ha hh => ?_, fun v ha hh => ?_, fun ha hh => ?_⟩,
    fun ha => ⟨fun hh => ?_, fun v hh => ?_⟩⟩
  iterate 4
    rw [step_of_access hh (by simp) (by simp)]
    exact memoryPort_busy (s := { s with host := rest }) hb _ _ _
  · rw [step_of_access hh (by simp; omega) (by simp), hostPort, regWrite_txbuf hl hr, if_pos hb]
  iterate 4
    rw [step_of_access hh (by simp) (by simp), hostPort,
      decide_eq_false (by simp only [rawBytes, imgWords]; omega)]
    exact memoryPort_outside (s := { s with host := rest }) hb _ _
  · rw [step_of_access hh (by simp) (by simp)]
    simp only [hostPort, regRead_none ha]
  · rw [step_of_access hh (by simp; omega) (by simp), hostPort,
      regWrite_other (by simp; omega) (by omega), regRead_none ha]
    rfl
end

section
/-! PROOFS. The memory port and the registers as the host reads them. -/

namespace Sys2Proof.Machine

@[simp] theorem steps_zero (s : State) : steps 0 s = .next s := rfl

/-- A run goes on from the next state. -/
theorem steps_succ {s t : State} (h : step s = .next t) (k : Nat) : steps (k + 1) s = steps k t := by
  simp only [steps, h]

theorem steps_two {s t u : State} (hs : step s = .next t) (ht : step t = .next u) : steps 2 s = .next u :=
  (steps_succ hs 1).trans (steps_succ ht 0)

/-- An access of the memory port to a place that exists, while not busy. -/
theorem step_of_memory_access {s : State} {a : HostAct} {rest : List HostAct} {inside : Bool} {f : Fault}
    {access : State → State} (hb : s.status.busy = false) (hh : s.host = a :: rest)
    (hc : ∀ v, a ≠ .writeReg 0 v) (he : a ≠ .engine)
    (hp : ∀ u, hostPort a u = memoryPort inside f access u) (hi : inside = true) :
    step s = .next (access { s with host := rest }) := by
  rw [step_of_access hh hc he, hp, hi]
  exact memoryPort_inside (s := { s with host := rest }) hb _ _

theorem step_readRaw {s : State} {a : Nat} {rest : List HostAct} (hb : s.status.busy = false) (ha : a < 614400)
    (hh : s.host = .readRaw a :: rest) :
    step s = .next { s with host := rest, readback := s.readback ++ [(rawByte a s).setWidth 32] } :=
  step_of_memory_access hb hh (by simp) (by simp) (fun _ => rfl) (decide_eq_true ha)

theorem step_readImg {s : State} {a : Nat} {rest : List HostAct} (hb : s.status.busy = false) (ha : a < 307200)
    (hh : s.host = .readImg a :: rest) :
    step s = .next { s with host := rest, readback := s.readback ++ [(imgWord a s).setWidth 32] } :=
  step_of_memory_access hb hh (by simp) (by simp) (fun _ => rfl) (decide_eq_true ha)

theorem step_writeRaw {s : State} {a : Nat} {v : Byte} {rest : List HostAct} (hb : s.status.busy = false)
    (ha : a < 614400) (hh : s.host = .writeRaw a v :: rest) :
    step s = .next (writeRaw a v { s with host := rest }) :=
  step_of_memory_access hb hh (by simp) (by simp) (fun _ => rfl) (decide_eq_true ha)

theorem step_writeImg {s : State} {a : Nat} {v : Word16} {rest : List HostAct} (hb : s.status.busy = false)
    (ha : a < 307200) (hh : s.host = .writeImg a v :: rest) :
    step s = .next (writeImg a v { s with host := rest }) :=
  step_of_memory_access hb hh (by simp) (by simp) (fun _ => rfl) (decide_eq_true ha)

/-- One unit is put at `a`: it is what is defined there, and nothing else changes. -/
theorem Memory.lookup_put_one {w : Nat} (m : Memory w) (a : Nat) (v : BitVec w) (b : Nat) :
    Memory.lookup (Memory.put m a [v]) b = if b = a then some v else Memory.lookup m b := by
  rw [Memory.lookup_put, List.length_singleton]
  by_cases h : b = a
  · simp [h]
  · rw [if_neg (by omega), if_neg h]

theorem rawByte_writeRaw (a : Nat) (v : Byte) (s : State) (b : Nat) :
    rawByte b (writeRaw a v s) = if b = a then v else rawByte b s := by
  rw [rawByte, writeRaw_raw, writeRaw_memEpoch, Memory.lookup_put_one]
  split <;> rfl

theorem imgWord_writeImg (a : Nat) (v : Word16) (s : State) (b : Nat) :
    imgWord b (writeImg a v s) = if b = a then v else imgWord b s := by
  rw [imgWord, writeImg_img, writeImg_memEpoch, Memory.lookup_put_one]
  split <;> rfl

/-- A removal of one address removes that address. -/
theorem Ranges.has_remove_one (g : Ranges) (a b : Nat) :
    Ranges.has (Ranges.remove g a 1) b = (Ranges.has g b && b != a) := by
  rw [Ranges.has_remove, Bool.eq_iff_iff]
  simp only [Bool.and_eq_true, Bool.not_eq_true', Bool.and_eq_false_iff, decide_eq_false_iff_not, bne_iff_ne]
  exact and_congr_right fun _ => by omega

-- `RXBUF` (10_state R18; 41_dispatcher R115)

/-- A byte of a stored response, as the host reads it. -/
theorem rxByte_received {n : Nat} {r : List Byte} (hr : r.length ≤ 16) (s : State) {k : Nat} (hk : k < r.length) :
    rxByte k (received n r s) = r[k] := by
  have hlen : (received n r s).rxlen.toNat = r.length := by simp [received]; omega
  rw [rxByte, hlen, if_pos hk]
  simp [received, rxStore, Config.rxBufBytes, show k < 16 by omega, hk]

-- The packed registers (10_state R10)

/-- `STATUS` has its four flags, and nothing above them. -/
theorem status_word (f : Status) :
    f.word.getLsbD 0 = f.busy ∧ f.word.getLsbD 1 = f.done ∧ f.word.getLsbD 2 = f.ok ∧ f.word.getLsbD 3 = f.fatal ∧
      f.word.toNat < 16 := by
  obtain ⟨b, d, o, x⟩ := f
  cases b <;> cases d <;> cases o <;> cases x <;> decide

/-- The fields of `ERR`, bit 23 and the bits above 26 being 0. -/
theorem errReg_word (e : ErrReg) :
    e.word.extractLsb' 0 8 = e.code ∧ e.word.extractLsb' 8 8 = e.cmdb ∧ e.word.extractLsb' 16 7 = e.blk ∧
      e.word.getLsbD 23 = false ∧ e.word.extractLsb' 24 3 = e.att ∧ e.word.extractLsb' 27 5 = 0#5 := by
  refine ⟨?_, ?_, ?_, by simp [ErrReg.word], ?_, ?_⟩
  all_goals
    refine BitVec.eq_of_getLsbD_eq fun i hi => ?_
    interval_cases i <;> simp [ErrReg.word]

/-- The fields of `RES_FW`, the top byte being 0. -/
theorem fwWord_fields (s : State) :
    (fwWord s).extractLsb' 0 8 = s.fwType ∧ (fwWord s).extractLsb' 8 8 = s.fwMajor ∧
      (fwWord s).extractLsb' 16 8 = s.fwMinor ∧ (fwWord s).extractLsb' 24 8 = 0#8 := by
  refine ⟨?_, ?_, ?_, ?_⟩
  all_goals
    refine BitVec.eq_of_getLsbD_eq fun i hi => ?_
    interval_cases i <;> simp [fwWord]

/-- The fields of `BAUD`, for each pair of rates. -/
theorem baud_word (cur prev : Rate) :
    ((rateIndex cur).setWidth 32 ||| ((rateIndex prev).setWidth 32 <<< 4) : Word32).extractLsb' 0 3 = rateIndex cur ∧
      ((rateIndex cur).setWidth 32 ||| ((rateIndex prev).setWidth 32 <<< 4) : Word32).extractLsb' 4 3 = rateIndex prev ∧
      ((rateIndex cur).setWidth 32 ||| ((rateIndex prev).setWidth 32 <<< 4) : Word32).getLsbD 3 = false ∧
      ((rateIndex cur).setWidth 32 ||| ((rateIndex prev).setWidth 32 <<< 4) : Word32).extractLsb' 7 25 = 0#25 := by
  cases cur <;> cases prev <;> decide

/-- The three words of `SUBST_MAP`, a bit for each block. -/
theorem regRead_substMap (s : State) {k : Nat} (hk : k < 96) :
    ∃ v : Word32, regRead (12 + k / 32) s = some v ∧ v.getLsbD (k % 32) = s.substMap.getLsbD k := by
  have hm : k % 32 < 32 := Nat.mod_lt k (by decide)
  obtain h | h | h : k / 32 = 0 ∨ k / 32 = 1 ∨ k / 32 = 2 := by omega
  · rw [h]
    exact ⟨_, rfl, by simp [show k % 32 = k by omega]; omega⟩
  · rw [h]
    exact ⟨_, rfl, by simp [hm, show 32 + k % 32 = k by omega]⟩
  · rw [h]
    refine ⟨_, rfl, ?_⟩
    simp only [BitVec.getLsbD_setWidth, BitVec.getLsbD_extractLsb', hm, show 64 + k % 32 = k by omega]
    by_cases hb : k < 75
    · simp [show k % 32 < 11 by omega]
    · simp [BitVec.getLsbD_of_ge s.substMap k (by omega)]

end Sys2Proof.Machine

open Sys2Proof Sys2Proof.Machine

/-- Settles O59: one step for a read; a write and the read after it, with what `put` leaves at every address. -/
theorem memoryPortReadsWhatWasWritten : Obligations.MemoryPortReadsWhatWasWritten := by
  intro s a rest hb
  refine ⟨step_readRaw hb, step_readImg hb, fun v ha hh => ?_, fun v ha hh => ?_⟩
  · refine ⟨_, steps_two (step_writeRaw hb ha hh) (step_readRaw hb ha rfl), ?_, rawByte_writeRaw a v s,
      Ranges.has_remove_one s.rawUnwritten a, rfl⟩
    simp [rawByte_writeRaw]
  · refine ⟨_, steps_two (step_writeImg hb ha hh) (step_readImg hb ha rfl), ?_, imgWord_writeImg a v s, rfl⟩
    simp [imgWord_writeImg]

/-- Settles O21: below `RXLEN` the buffer holds the response. -/
theorem receivedBytesAreReadable : Obligations.ReceivedBytesAreReadable := by
  intro s n r hr
  have hlen : (received n r s).rxlen = BitVec.ofNat 8 r.length := rfl
  refine ⟨?_, rxStore_length _ _, ?_, fun k hk => ?_⟩
  · rw [hlen, BitVec.toNat_ofNat]; omega
  · rw [regRead, hlen]
    refine congrArg some (BitVec.eq_of_toNat_eq ?_)
    simp only [BitVec.toNat_setWidth, BitVec.toNat_ofNat]
    omega
  · rw [regRead_rxbuf (by omega), rxByte_received hr s hk]

/-- Settles O57: the fields of each register, one by one. -/
theorem packedRegistersRead : Obligations.PackedRegistersRead := by
  intro s
  have whole {w : Nat} (x : BitVec w) (hw : w ≤ 32) : (x.setWidth 32 : Word32).toNat = x.toNat := by
    rw [BitVec.toNat_setWidth, Nat.mod_eq_of_lt (lt_of_lt_of_le x.isLt (Nat.pow_le_pow_right (by decide) hw))]
  have number {w : Nat} {no : Nat} (x : BitVec w) (hw : w ≤ 32) (hr : regRead no s = some (x.setWidth 32)) :
      ∃ v : Word32, regRead no s = some v ∧ v.toNat = x.toNat := ⟨_, hr, whole x hw⟩
  refine ⟨rfl, ⟨_, rfl, status_word s.status⟩, ⟨_, rfl, errReg_word s.err⟩, rfl, number s.argTicks (by decide) rfl,
    number s.argFlags (by decide) rfl, rfl, number s.argLen (by decide) rfl, number s.rxlen (by decide) rfl,
    number s.resCks (by decide) rfl, ⟨_, rfl, fwWord_fields s⟩, number s.substCnt (by decide) rfl,
    fun _ => regRead_substMap s, ⟨_, rfl, baud_word s.baudCur s.baudPrev⟩, rfl, rfl,
    fun k hk => number _ (by decide) (regRead_txbuf hk s), fun k hk => ⟨_, regRead_rxbuf hk s, ?_, fun hr => ?_⟩⟩
  · rw [whole _ (by decide)]; exact (rxByte k s).isLt
  · rw [whole _ (by decide), rxByte, if_pos hr]
end

section
/-! PROOFS. The start of an operation and the frame a busy engine writes: the table of the host operations, the checksum
unit against `framed`, and the frame that is due in each state of the sequencer. -/

namespace Sys2Proof.Machine

-- The table of the host operations (30_encoding R80)

/-- Every host operation of the table is run by `runOperation`. -/
theorem exec_hostOp {op : Byte} {i : Instr} {q : Seq} (h : (op, i, q) ∈ hostOps) :
    ∃ advance : State → Option State, ∀ s, exec i s = runOperation op q advance s := by
  simp only [hostOps, List.mem_cons, Prod.mk.injEq, List.not_mem_nil, or_false] at h
  rcases h with ⟨rfl, rfl, rfl⟩ | ⟨rfl, rfl, rfl⟩ | ⟨rfl, rfl, rfl⟩ | ⟨rfl, rfl, rfl⟩ | ⟨rfl, rfl, rfl⟩ |
    ⟨rfl, rfl, rfl⟩ | ⟨rfl, rfl, rfl⟩ | ⟨rfl, rfl, rfl⟩ | ⟨rfl, rfl, rfl⟩ | ⟨rfl, rfl, rfl⟩ | ⟨rfl, rfl, rfl⟩ |
    ⟨rfl, rfl, rfl⟩ | ⟨rfl, rfl, rfl⟩ | ⟨rfl, rfl, rfl⟩
  all_goals exact ⟨_, fun _ => rfl⟩

theorem hostOps_codes : ∀ x ∈ hostOps, decode [x.1] = .ok x.2.1 ∧ encode x.2.1 = [x.1] ∧ x.2.1.wellFormed = true := by
  simp only [hostOps, List.forall_mem_cons, List.not_mem_nil, IsEmpty.forall_iff, implies_true, and_true]
  and_intros <;> rfl

theorem decode_hostOp {op : Byte} {i : Instr} {q : Seq} (h : (op, i, q) ∈ hostOps) : decode [op] = .ok i :=
  (hostOps_codes _ h).1

/-- A code is one of the table, or it is reserved (30_encoding R82). -/
theorem decode_code (op : Byte) : (∃ i q, (op, i, q) ∈ hostOps) ∨ decode [op] = .error (.reservedCode op) := by
  show _ ∨ decodeHost op = _
  unfold decodeHost
  split
  case h_15 => exact .inr rfl
  all_goals exact .inl (by simp [hostOps])

-- The `CMD` write to an idle engine (10_state R11, R35)

theorem fetch_of_cmd {s : State} {v : Word32} {rest : List HostAct} (hi : Idle s)
    (hh : s.host = .writeReg 0 v :: rest) : fetch s = some [v.setWidth 8] := by
  simp [fetch, hh, hi.1, hi.2]

/-- A `CMD` write of an operation's code starts it, or is refused. -/
theorem step_of_cmd {s : State} {v : Word32} {rest : List HostAct} {op : Byte} {i : Instr} {q : Seq}
    (hm : (op, i, q) ∈ hostOps) (hi : Idle s) (hh : s.host = .writeReg 0 v :: rest) (hv : v.setWidth 8 = op) :
    step s = if operandsWritten op s then .next (start op q (popHost s)) else .refused .operandNeverWritten := by
  have hf := fetch_of_cmd hi hh
  rw [hv] at hf
  obtain ⟨advance, hx⟩ := exec_hostOp hm
  simp only [step, hf, decode_hostOp hm, hx]
  exact runOperation_idle (s := popHost s) hi.1 hi.2 op q _

/-- A `CMD` write to an engine that does not accept it. -/
theorem step_of_cmd_ignored {s : State} {v : Word32} {rest : List HostAct} (hi : ¬ Idle s)
    (hh : s.host = .writeReg 0 v :: rest) : step s = .next (cmdIgnored { s with host := rest }) := by
  have hf : fetch s = none := by
    have : (s.status.busy || s.status.fatal) = true := by
      rw [Idle, not_and_or, Bool.not_eq_false, Bool.not_eq_false] at hi
      rcases hi with h | h <;> simp [h]
    simp [fetch, hh, this]
  exact step_of_fetch_none hf hh

-- The checksum unit computes the checksum of 40_checksum R100

/-- One more byte, in the seven bits of the unit and in the byte of R100. -/
theorem absorb_setWidth (a : BitVec 7) (b : Byte) :
    (a ^^^ ckBits b).setWidth 8 = ((a.setWidth 8 ^^^ not8 b) &&& 0x7F#8 : Byte) := by
  refine BitVec.eq_of_getLsbD_eq fun i hi => ?_
  interval_cases i <;> simp [ckBits]

theorem cksAbsorbAll_cons (b : Byte) (bs : List Byte) (s : State) :
    cksAbsorbAll (b :: bs) s = cksAbsorbAll bs (cksAbsorb b s) := rfl

theorem cksValue_cksAbsorbAll (bs : List Byte) (s : State) (h : s.cksEmpty = false) :
    cksValue (cksAbsorbAll bs s) = bs.foldl (fun c b => (c ^^^ not8 b) &&& 0x7F#8) (cksValue s) := by
  induction bs generalizing s with
  | nil => rfl
  | cons b bs ih =>
    rw [cksAbsorbAll_cons, ih _ rfl, List.foldl_cons, cksValue, cksValue, ← absorb_setWidth]
    simp [cksAbsorb, h]

/-- What `Emit` appends is the checksum of the payload (40_checksum R101). -/
theorem compute_eq_cksValue (b : Byte) (bs : List Byte) (s : State) :
    compute (b :: bs) = some (cksValue (cksAbsorbAll (b :: bs) (cksClear s))) := by
  have first : cksValue (cksAbsorb b (cksClear s)) = not8 b &&& 0x7F#8 := by
    have := absorb_setWidth 0#7 b
    simpa [cksValue, cksAbsorb, cksClear] using this
  rw [cksAbsorbAll_cons, cksValue_cksAbsorbAll _ _ rfl, first, compute]

/-- `Emit` writes the frame of its payload (30_encoding R60; 41_dispatcher R110). -/
theorem emitFrame_eq (c : Byte) (args : List Byte) (s : State) : emitFrame c args s = framed (c :: args) := by
  rw [framed, compute_eq_cksValue c args s]
  rfl

/-- The checksum unit changes nothing but itself. -/
theorem cksAbsorbAll_eq (bs : List Byte) (s : State) :
    cksAbsorbAll bs s =
      { s with cksAcc := (cksAbsorbAll bs s).cksAcc, cksEmpty := (cksAbsorbAll bs s).cksEmpty } := by
  induction bs generalizing s with
  | nil => rfl
  | cons b bs ih => exact ih (cksAbsorb b s)

/-- What `Emit` leaves behind it, in words of the frame. -/
theorem emitted_eq_written (c : Byte) (args : List Byte) (s : State) :
    emitted c args s = written (framed (c :: args)) (linkOk s) s := by
  have last : (framed (c :: args)).getLastD 0#8 = cksValue (emitPrepare c args s) := by
    rw [← emitFrame_eq c args s, emitFrame, List.getLastD_concat]
  have acc : ((framed (c :: args)).getLastD 0#8).setWidth 7 = (emitPrepare c args s).cksAcc := by
    rw [last, cksValue, BitVec.setWidth_setWidth_of_le _ (by decide), BitVec.setWidth_eq]
  have prepared : emitPrepare c args s =
      { s with lastCmd := c, cksAcc := (emitPrepare c args s).cksAcc, cksEmpty := false } := by
    rw [emitPrepare, cksAbsorbAll_eq, cksEmpty_cksAbsorbAll_cons]
    rfl
  rw [written, acc, emitted, afterWrite, emitFrame_eq, linkOk_emitPrepare, prepared]
  rfl

-- Decoding a frame (30_encoding R60, R71)

/-- The decoder takes the checksum off and reads the payload. -/
theorem decode_framed (c : Byte) (args : List Byte) : decode (framed (c :: args)) = decodePayload (c :: args) := by
  obtain ⟨k, hk⟩ : ∃ k, compute (c :: args) = some k := ⟨_, rfl⟩
  have hd : decode (framed (c :: args)) = decodeFrame (framed (c :: args)) := by
    simp only [framed, hk, Option.toList_some, List.cons_append]
    cases args <;> rfl
  rw [hd, decodeFrame, framed, hk, Option.toList_some, List.dropLast_concat, List.getLastD_concat, if_pos hk]

/-- The bytes of a 24-bit number, most significant first, give it back. -/
theorem bytes_of_ticks {n : Nat} (h : n < 2 ^ 24) :
    (byteOf n 2).toNat * 65536 + (byteOf n 1).toNat * 256 + (byteOf n 0).toNat = n := by
  simp only [byteOf, BitVec.toNat_ofNat, Nat.reducePow] at h ⊢
  omega

/-- The decoder reads back what the encoder writes. -/
theorem decode_encode (i : Instr) (h : i.wellFormed = true) : decode (encode i) = .ok i := by
  cases i with
  | frameT ticks light =>
    have ht : ticks < 2 ^ 24 := of_decide_eq_true h
    rw [encode, decode_framed]
    simp only [decodePayload, decodeLong, true_and]
    rw [if_pos (by cases light <;> simp), bytes_of_ticks ht]
    cases light <;> rfl
  | _ => rfl

-- The frame that is due (30_encoding R71, "written by")

theorem due_popHost (i : Instr) (s : State) : due i (popHost s) ↔ due i s := by cases i <;> exact Iff.rfl

/-- What a transition that writes a frame does before it writes (43_exposure R132; 44_transfer R141). -/
def writePrepared (q : Seq) (s : State) : State :=
  match q with
  | .exTx => { s with polls := 0#32 }
  | .riX => { s with substCnt := 0#7, substMap := 0#75 }
  | _ => s

/-- How a transition that writes a frame ends when the Transport does not take it (42_baud R127; 44_transfer R154). -/
def writeFailure (q : Seq) : State → State :=
  match q with
  | .bnCmd | .bnTest | .bnConf => baudFatal
  | .riAck | .riRetry | .riAbort => blockFatal
  | _ => linkFatal

/-- Frame `i` is the one the sequencer's state writes: its payload, its bytes, and the transition that writes it. -/
def WritesFrame (i : Instr) (s : State) : Prop :=
  ∃ (c : Byte) (args : List Byte) (next : State → State), seqPayload s = some (c, args) ∧
    encode i = framed (c :: args) ∧ exec i s = .next (emit c args next (writeFailure s.seq) (writePrepared s.seq s))

theorem whenDue_of_due {d : Bool} (h : d = true) (f : State → State) (s : State) : whenDue d f s = .next (f s) := by
  rw [whenDue, if_pos h]

/-- A frame that is written where operation `op` stands at `q`. -/
theorem writesFrame_of {i : Instr} {s : State} {op : Byte} {q : Seq} (h : Running op q s) (c : Byte) (args : List Byte)
    (next : State → State) (hp : seqPayload s = some (c, args)) (he : encode i = framed (c :: args))
    (hx : exec i s = .next (emit c args next (writeFailure q) (writePrepared q s))) : WritesFrame i s :=
  ⟨c, args, next, hp, he, by rw [hx, h.2.2.2]⟩

/-- A single-command operation's frame (46_device_control R170). -/
theorem writesFrame_dcTx {i : Instr} {s : State} {op : Byte} (h : Running op .dcTx s) (c : Byte) (args : List Byte)
    (m : Nat) (hp : controlPayload s.latch = some (c, args)) (he : encode i = framed (c :: args))
    (hx : exec i s = .next (dcTx c args m s)) : WritesFrame i s :=
  writesFrame_of h c args (fun t => if m = 0 then complete true t else goto .dcRx t)
    (by rw [seqPayload, h.2.2.2]; exact hp) he hx

/-- A frame of HEATER or CHOP (46_device_control R178, R179). -/
theorem writesFrame_on {i : Instr} {s : State} {op c : Byte} {on : Bool} (h : Running op .dcTx s)
    (hl : s.latch.on = on) (hp : controlPayload s.latch = some (c, [bitByte s.latch.on]))
    (he : encode i = framed [c, bitByte on]) (hx : exec i s = frameOn op c on s) : WritesFrame i s := by
  subst hl
  refine writesFrame_dcTx h c _ 0 hp he ?_
  rw [hx, frameOn, whenDue_of_due (by rw [(runsAt_iff op .dcTx s).2 h]; simp)]

/-- A `B` frame (42_baud R122). -/
theorem writesFrame_bnCmd {i : Instr} {s : State} {r : Rate} (h : Running 0x03#8 .bnCmd s)
    (hr : rateOf s.latch.rate = some r) (he : encode i = framed [0x42#8, rateDigit r])
    (hx : exec i s = frameB r s) : WritesFrame i s := by
  refine writesFrame_of h 0x42#8 [rateDigit r] (goto .bnRate) (by rw [seqPayload, h.2.2.2]; simp [hr]) he ?_
  rw [hx, frameB, whenDue_of_due (by rw [(runsAt_iff _ _ _).2 h, hr]; simp)]
  rfl

/-- The exposure frame's bytes are those of the latched ticks (30_encoding R64, R67, R68). -/
theorem encode_frameT (l : Latches) : encode (.frameT l.ticks.toNat l.light) = framed (0x54#8 :: exposureArgs l) := by
  have byte (k : Nat) : byteOf l.ticks.toNat k = l.ticks.extractLsb' (8 * k) 8 := by
    refine BitVec.eq_of_toNat_eq ?_
    rw [byteOf, BitVec.toNat_ofNat, BitVec.extractLsb'_toNat, Nat.shiftRight_eq_div_pow, Nat.pow_mul]
  rw [encode, byte, byte, byte]
  rfl

/-- A frame that is due is the one the sequencer's state writes. -/
theorem writesFrame_of_due {i : Instr} {s : State} (h : due i s) : WritesFrame i s := by
  have runs {op : Byte} {q : Seq} (hr : Running op q s) : runsAt op q s = true := (runsAt_iff op q s).2 hr
  cases i with
  | cksum | send | setbaud | startexp | readimg | decodePix => exact h.elim
  | ping | shopen | shclose | shdeen | abortexp | fwquery | heater | chop => exact h.elim
  | frameE | frameV =>
    exact writesFrame_dcTx h _ [] 2 (by simp only [controlPayload, h.2.2.1]; rfl) rfl (whenDue_of_due (runs h) _ _)
  | frameO | frameC | frameA =>
    exact writesFrame_dcTx h _ [] 0 (by simp only [controlPayload, h.2.2.1]; rfl) rfl (whenDue_of_due (runs h) _ _)
  | frameK =>
    rcases h with h | h
    · exact writesFrame_dcTx h 0x4B#8 [] 0 (by simp [controlPayload, h.2.2.1]) rfl (by simp [exec, execFrameK, runs h])
    · refine writesFrame_of h 0x4B#8 [] nextBlock (by simp [seqPayload, h.2.2.2]) rfl ?_
      have other : runsAt 0x13#8 .dcTx s = false := by simp [runsAt, h.2.2.1]
      rw [exec, execFrameK, if_neg (by simp [other]), whenDue_of_due (runs h)]
      rfl
  | frameG0 | frameG1 | frameU0 | frameU1 =>
    exact writesFrame_on h.1 h.2 (by simp only [controlPayload, h.1.2.2.1]; rfl) rfl rfl
  | frameB0 | frameB1 | frameB2 | frameB3 | frameB4 | frameB5 | frameB6 =>
    exact writesFrame_bnCmd h.1 (by rw [h.2]; rfl) rfl rfl
  | frameTest =>
    refine writesFrame_of h 0x54#8 testArgs (goto .bnReply) (by simp [seqPayload, h.2.2.2]) rfl ?_
    rw [exec, execFrameTest, whenDue_of_due (runs h)]
    rfl
  | frameKconf =>
    refine writesFrame_of h 0x6B#8 [] (complete true) (by simp [seqPayload, h.2.2.2]) rfl ?_
    rw [exec, execFrameKconf, whenDue_of_due (runs h)]
    rfl
  | frameT ticks light =>
    obtain ⟨h, rfl, rfl⟩ := h
    refine writesFrame_of h 0x54#8 (exposureArgs s.latch) (goto .exWait) (by simp [seqPayload, h.2.2.2])
      (encode_frameT s.latch) ?_
    rw [exec, execFrameT, whenDue_of_due (by simp [runs h])]
    rfl
  | frameX =>
    refine writesFrame_of h 0x58#8 [] (goto .riSync) (by simp [seqPayload, h.2.2.2]) rfl ?_
    rw [exec, execFrameX, whenDue_of_due (runs h)]
    rfl
  | frameR =>
    refine writesFrame_of h 0x52#8 [] (fun t => goto .riBlk { t with att := t.att + 1#3 })
      (by simp [seqPayload, h.2.2.2]) rfl ?_
    rw [exec, execFrameR, whenDue_of_due (runs h)]
    rfl
  | frameS =>
    refine writesFrame_of h 0x53#8 []
      (fun t => nextBlock (substitute (logError .blockTransferAborted t.blk t.att t)))
      (by simp [seqPayload, h.2.2.2]) rfl ?_
    rw [exec, execFrameS, whenDue_of_due (runs h)]
    rfl

/-- The rates are exactly the values that `rateOf` accepts. -/
theorem rateOf_eq_some {w : Word32} {r : Rate} (h : rateOf w = some r) : w = rateBps r := by
  unfold rateOf at h
  split_ifs at h <;> cases h <;> assumption

/-- A state of a running operation that writes a frame has a frame that is due. -/
theorem exists_due {s : State} (hb : s.status.busy = true) (hf : s.status.fatal = false)
    (ho : belongsTo s.seq s.latch.op = true) {p : Byte × List Byte} (hp : seqPayload s = some p) :
    ∃ i : Instr, i.wellFormed = true ∧ due i s := by
  have runs {op : Byte} {q : Seq} (h1 : s.latch.op = op) (h2 : s.seq = q) : Running op q s := ⟨hb, hf, h1, h2⟩
  unfold seqPayload at hp
  split at hp
  case h_10 => cases hp
  all_goals
    rename_i hq
    rw [hq] at ho
  case h_1 =>
    unfold controlPayload at hp
    split_ifs at hp with h0 h1 h2 h3 h4 h5 h6 h7
    · exact ⟨.frameE, rfl, runs h0 hq⟩
    · exact ⟨.frameO, rfl, runs h1 hq⟩
    · exact ⟨.frameC, rfl, runs h2 hq⟩
    · exact ⟨.frameK, rfl, .inl (runs h3 hq)⟩
    · exact ⟨.frameA, rfl, runs h4 hq⟩
    · exact ⟨.frameV, rfl, runs h5 hq⟩
    · cases hl : s.latch.on
      · exact ⟨.frameG0, rfl, runs h6 hq, hl⟩
      · exact ⟨.frameG1, rfl, runs h6 hq, hl⟩
    · cases hl : s.latch.on
      · exact ⟨.frameU0, rfl, runs h7 hq, hl⟩
      · exact ⟨.frameU1, rfl, runs h7 hq, hl⟩
  case h_2 =>
    obtain ⟨r, hr, -⟩ := Option.map_eq_some_iff.mp hp
    have hr := rateOf_eq_some hr
    have hx := runs (eq_of_beq ho) hq
    cases r
    exacts [⟨.frameB0, rfl, hx, hr⟩, ⟨.frameB1, rfl, hx, hr⟩, ⟨.frameB2, rfl, hx, hr⟩, ⟨.frameB3, rfl, hx, hr⟩,
      ⟨.frameB4, rfl, hx, hr⟩, ⟨.frameB5, rfl, hx, hr⟩, ⟨.frameB6, rfl, hx, hr⟩]
  case h_5 =>
    exact ⟨.frameT s.latch.ticks.toNat s.latch.light, decide_eq_true s.latch.ticks.isLt, runs (eq_of_beq ho) hq, rfl,
      rfl⟩
  case h_3 => exact ⟨.frameTest, rfl, runs (eq_of_beq ho) hq⟩
  case h_4 => exact ⟨.frameKconf, rfl, runs (eq_of_beq ho) hq⟩
  case h_6 => exact ⟨.frameX, rfl, runs (eq_of_beq ho) hq⟩
  case h_7 => exact ⟨.frameK, rfl, .inr (runs (eq_of_beq ho) hq)⟩
  case h_8 => exact ⟨.frameR, rfl, runs (eq_of_beq ho) hq⟩
  case h_9 => exact ⟨.frameS, rfl, runs (eq_of_beq ho) hq⟩

end Sys2Proof.Machine
end

section
/-! PROOFS. What a step runs: the `CMD` write, the engine's turn, and a frame that the Transport does not take. -/

namespace Sys2Proof.Machine

theorem runOperation_goes {s : State} {op : Byte} {first : Seq} {advance : State → Option State}
    (hb : s.status.busy = true) (hf : s.status.fatal = false) (ho : s.latch.op = op)
    (ha : (advance s).isSome = true) : ∃ t, runOperation op first advance s = .next t := by
  obtain ⟨t, ht⟩ := Option.isSome_iff_exists.mp ha
  exact ⟨t, runOperation_runs hb hf ho first ht⟩

/-- A running operation that stands where no frame is written takes a transition of its own. -/
theorem exec_own {s : State} (hb : s.status.busy = true) (hf : s.status.fatal = false)
    (ho : belongsTo s.seq s.latch.op = true) (hr : afterCheck s.seq = true → (rateOf s.latch.rate).isSome = true)
    (hp : seqPayload s = none) :
    ∃ (i : Instr) (q : Seq), (s.latch.op, i, q) ∈ hostOps ∧ ∃ t, exec i s = .next t := by
  cases hq : s.seq <;> rw [hq] at ho hr <;> rw [seqPayload, hq] at hp
  case idle | fatal => cases ho
  case bnTest | bnConf | exTx | riX | riAck | riRetry | riAbort => cases hp
  case bnCmd => exact absurd (hr rfl) (by simp [Option.map_eq_none_iff.mp hp])
  case dcTx =>
    have hop := of_decide_eq_true ho
    simp only [controlPayload] at hp
    split_ifs at hp
    bv_omega
  case dcRx =>
    rw [belongsTo, Bool.or_eq_true, beq_iff_eq, beq_iff_eq] at ho
    rcases ho with ho | ho
    · exact ⟨.ping, .dcTx, by simp [ho, hostOps], runOperation_goes hb hf ho (by simp [dcReply, hq])⟩
    · exact ⟨.fwquery, .dcTx, by simp [ho, hostOps], runOperation_goes hb hf ho (by simp [dcReply, hq])⟩
  case ckRun =>
    have ho := eq_of_beq ho
    exact ⟨.cksum, .ckRun, by simp [ho, hostOps],
      runOperation_goes (advance := fun s => if s.seq = .ckRun then some (ckRun s) else none) hb hf ho (by simp [hq])⟩
  case deRun =>
    have ho := eq_of_beq ho
    exact ⟨.decodePix, .deRun, by simp [ho, hostOps],
      runOperation_goes (advance := fun s => if s.seq = .deRun then some (deRun s) else none) hb hf ho (by simp [hq])⟩
  case sdTx | sdRx =>
    have ho := eq_of_beq ho
    exact ⟨.send, .sdTx, by simp [ho, hostOps], runOperation_goes hb hf ho (by simp [sendStep, hq])⟩
  case exWait =>
    have ho := eq_of_beq ho
    exact ⟨.startexp, .exTx, by simp [ho, hostOps], runOperation_goes hb hf ho (by simp [startexpStep, hq])⟩
  case bnCheck | bnAck | bnReply | bnRoll =>
    have ho := eq_of_beq ho
    exact ⟨.setbaud, .bnCheck, by simp [ho, hostOps], runOperation_goes hb hf ho (by simp [setbaudStep, hq])⟩
  case bnRate =>
    have ho := eq_of_beq ho
    exact ⟨.setbaud, .bnCheck, by simp [ho, hostOps], runOperation_goes hb hf ho (by simp [setbaudStep, hq, hr rfl])⟩
  case riSync | riBlk | riEpi | riDec =>
    have ho := eq_of_beq ho
    exact ⟨.readimg, .riX, by simp [ho, hostOps], runOperation_goes hb hf ho (by simp [readimgStep, hq])⟩

theorem fetch_of_turn {s : State} (h : EngineTurn s) :
    fetch s = if s.status.busy && !s.status.fatal then some (seqWord s) else none := by
  rcases h with h | ⟨rest, h⟩ <;> simp only [fetch, h]

/-- On its turn an engine that runs nothing waits (log 29). -/
theorem step_waits {s : State} (h : EngineTurn s) (hr : (s.status.busy && !s.status.fatal) = false) :
    step s = .next (popHost s) := by
  have hf : fetch s = none := by rw [fetch_of_turn h, hr]; rfl
  rcases h with h | ⟨rest, h⟩
  · have hp : popHost s = s := by rw [popHost, h, List.tail_nil, ← h]
    rw [hp]
    simp only [step, hf, portStep, h]
  · have hp : popHost s = { s with host := rest } := by rw [popHost, h, List.tail_cons]
    rw [step_of_fetch_none hf h, hp]
    rfl

/-- On its turn a running engine runs the instruction whose bytes it stands at. -/
theorem step_of_word {s : State} {i : Instr} (hb : s.status.busy = true) (hf : s.status.fatal = false)
    (ht : EngineTurn s) (hw : i.wellFormed = true) (he : seqWord s = encode i) :
    fetch s = some (encode i) ∧ step s = exec i (popHost s) := by
  have hfetch : fetch s = some (encode i) := by rw [fetch_of_turn ht, hb, hf, ← he]; rfl
  exact ⟨hfetch, by simp only [step, hfetch, decode_encode i hw]⟩

theorem seqWord_of_due {i : Instr} {s : State} (h : due i s) : seqWord s = encode i := by
  obtain ⟨c, args, _, hp, he, -⟩ := writesFrame_of_due h
  rw [seqWord, hp, he]
  exact emitFrame_eq c args s

/-- On its turn a running engine runs the frame that is due, or a transition of its own operation; either has a next
state. -/
theorem busy_engine_runs {s : State} (hI : Inv s) (hb : s.status.busy = true) (ht : EngineTurn s) :
    ∃ (i : Instr) (t : State), i.wellFormed = true ∧ fetch s = some (encode i) ∧ step s = exec i (popHost s) ∧
      exec i (popHost s) = .next t ∧ (due i s ∨ encode i = [s.latch.op] ∧ ∀ j : Instr, ¬ due j s) := by
  have hf : s.status.fatal = false := by simpa [hb] using hI.busy_fatal
  have ho := hI.seq_op hb
  cases hp : seqPayload s with
  | some p =>
    obtain ⟨i, hw, hd⟩ := exists_due hb hf ho hp
    obtain ⟨_, _, _, -, -, hx⟩ := writesFrame_of_due ((due_popHost i s).2 hd)
    obtain ⟨h1, h2⟩ := step_of_word hb hf ht hw (seqWord_of_due hd)
    exact ⟨i, _, hw, h1, h2, hx, .inl hd⟩
  | none =>
    obtain ⟨i, q, hm, t, hx⟩ := exec_own (s := popHost s) hb hf ho hI.rate_ok hp
    obtain ⟨-, he, hw⟩ := hostOps_codes _ hm
    obtain ⟨h1, h2⟩ := step_of_word hb hf ht hw (by rw [seqWord, hp]; exact he.symm)
    refine ⟨i, t, hw, h1, h2, hx, .inr ⟨he, fun j hd => ?_⟩⟩
    obtain ⟨c, args, next, hp', -⟩ := writesFrame_of_due hd
    exact absurd (hp.symm.trans hp') (by simp)

/-- A frame is due only in a state of the operation that writes it; only `X` is due in `RI_X`. -/
theorem due_running {i : Instr} {s : State} (h : due i s) :
    ∃ op q, Running op q s ∧ belongsTo q op = true ∧ (i = .frameX ↔ q = .riX) := by
  cases i with
  | cksum | send | setbaud | startexp | readimg | decodePix => exact h.elim
  | ping | shopen | shclose | shdeen | abortexp | fwquery | heater | chop => exact h.elim
  | frameE | frameO | frameC | frameA | frameV => exact ⟨_, _, h, rfl, by simp⟩
  | frameK => rcases h with h | h <;> exact ⟨_, _, h, rfl, by simp⟩
  | frameG0 | frameG1 | frameU0 | frameU1 => exact ⟨_, _, h.1, rfl, by simp⟩
  | frameB0 | frameB1 | frameB2 | frameB3 | frameB4 | frameB5 | frameB6 => exact ⟨_, _, h.1, rfl, by simp⟩
  | frameTest | frameKconf | frameX | frameR | frameS => exact ⟨_, _, h, rfl, by simp⟩
  | frameT => exact ⟨_, _, h.1, rfl, by simp⟩

/-- A block that is lost to a failed write, beside the raised error. -/
theorem blockFatal_frame (s : State) :
    blockFatal s = { raise .transportFatal s.blk s.att s with
      raw := (blockFatal s).raw
      rawUnwritten := Ranges.remove s.rawUnwritten (8192 * s.blk.toNat) 8192
      blkEpoch := (blockFatal s).blkEpoch } := rfl

theorem linkOk_writePrepared (q : Seq) (s : State) : linkOk (writePrepared q s) = linkOk s := by
  cases q <;> rfl

-- A read attempt of a block (44_transfer R143, R144)

/-- The state after a full read of the block `BLK`: its payload is stored, `LRC_ACC` computed. -/
def blockStored (s : State) : State :=
  { storeBlock ((readLink 8193 s).take blockBytes) (afterRead 8193 { s with lrcAcc := 0#8 }) with
    lrcAcc := lrc ((readLink 8193 s).take blockBytes) }

/-- Storing a block touches neither the sequencer's place nor the operation's flags and latches. -/
@[simp] theorem blockStored_keeps (s : State) :
    (blockStored s).seq = s.seq ∧ (blockStored s).blk = s.blk ∧ (blockStored s).nblk = s.nblk ∧
      (blockStored s).att = s.att ∧ (blockStored s).status = s.status ∧ (blockStored s).err = s.err ∧
      (blockStored s).latch = s.latch ∧ (blockStored s).substCnt = s.substCnt ∧
      (blockStored s).substMap = s.substMap := by
  simp [blockStored, storeBlock]

@[simp] theorem blockStored_rawUnwritten (s : State) :
    (blockStored s).rawUnwritten = Ranges.remove s.rawUnwritten (blockBase s) blockBytes := by
  simp [blockStored, storeBlock, blockBase]

/-- Everything a read attempt can do: a cancellation before or after the block's first read, a short read, a good block,
a mismatch with attempts left, the last mismatch. -/
theorem riBlk_cases (s : State) :
    (s.cancel = true ∧ s.att = 0#3 ∧ riBlk s = raise .cancelled s.blk s.att s) ∨
    (s.cancel = true ∧ s.att ≠ 0#3 ∧ riBlk s = raise .cancelled s.blk s.att (loseBlock s)) ∨
    (s.cancel = false ∧ (readLink 8193 s).length < 8193 ∧
      riBlk s = raise .communicationTimeout s.blk s.att (loseBlock (afterRead 8193 { s with lrcAcc := 0#8 }))) ∨
    (s.cancel = false ∧ goodRead (readLink 8193 s) ∧ riBlk s = goto .riAck (blockStored s)) ∨
    (s.cancel = false ∧ badRead (readLink 8193 s) ∧ s.att < retryMax ∧
      riBlk s = goto .riRetry (logError .checksumMismatch s.blk s.att (blockStored s))) ∨
    (s.cancel = false ∧ badRead (readLink 8193 s) ∧ ¬ s.att < retryMax ∧
      riBlk s = goto .riAbort (logError .checksumMismatch s.blk s.att (blockStored s))) := by
  have most := readLink_length_le 8193 s
  unfold riBlk
  by_cases hc : s.cancel = true
  · rw [if_pos hc]
    by_cases ha : s.att = 0#3
    · exact .inl ⟨hc, ha, by rw [if_pos ha]⟩
    · exact .inr (.inl ⟨hc, ha, by rw [if_neg ha]⟩)
  rw [if_neg hc]
  have hc := Bool.eq_false_of_not_eq_true hc
  dsimp only
  by_cases hl : (readLink 8193 s).length < 8193
  · exact .inr (.inr (.inl ⟨hc, hl, by rw [if_pos hl]⟩))
  have full : (readLink 8193 s).length = 8193 := by omega
  rw [if_neg hl]
  by_cases hg : lrc ((readLink 8193 s).take blockBytes) = (readLink 8193 s).getD blockBytes 0#8
  · exact .inr (.inr (.inr (.inl ⟨hc, ⟨full, hg⟩, by rw [if_pos hg]; rfl⟩)))
  rw [if_neg hg]
  by_cases ha : s.att < retryMax
  · exact .inr (.inr (.inr (.inr (.inl ⟨hc, ⟨full, hg⟩, ha, by rw [if_pos ha]; rfl⟩))))
  · exact .inr (.inr (.inr (.inr (.inr ⟨hc, ⟨full, hg⟩, ha, by rw [if_neg ha]; rfl⟩))))

/-- The start of an operation, the flags of `STATUS` written out. -/
theorem start_eq (op : Byte) (q : Seq) (s : State) {st : Status} (h : ⟨true, false, false, s.status.fatal⟩ = st) :
    start op q s = { s with
      latch := latchOperands op s, status := st, err := ErrReg.none, rxlen := 0#8, lastCmd := 0#8, seq := q } := by
  subst h; rfl

end Sys2Proof.Machine

open Sys2Proof Sys2Proof.Machine

/-- Settles O8: a state that writes a frame has one that is due, any other runs its operation's code. -/
theorem busyEngineRunsItsOperation : Obligations.BusyEngineRunsItsOperation := by
  intro s hI hb ht
  obtain ⟨i, -, hw, hf, hs, -, hd⟩ := busy_engine_runs hI hb ht
  exact ⟨i, hw, hf, hs, hd⟩

/-- Settles O11: the check at the start is `OperandsWritten`. -/
theorem unwrittenOperandIsRefused : Obligations.UnwrittenOperandIsRefused := by
  intro s v rest op i q hm hi hh hv
  rw [step_of_cmd hm hi hh hv, ← operandsWritten_iff]
  split <;> simp_all

/-- Settles O10: an idle engine whose operands are written starts. -/
theorem cmdWriteStartsTheOperation : Obligations.CmdWriteStartsTheOperation := by
  intro s v rest op i q hm hi hh hv hw
  refine ⟨decode_hostOp hm, ?_⟩
  have hs : start op q (popHost s) = start op q { s with host := rest } := by rw [popHost, hh, List.tail_cons]
  rw [step_of_cmd hm hi hh hv, if_pos ((operandsWritten_iff op s).2 hw), hs,
    start_eq op q { s with host := rest } (congrArg (Status.mk true false false) hi.2)]
  rfl

/-- Settles O51: on the engine's turn by what a busy engine runs; at a `CMD` write by the table of the codes. -/
theorem engineNeverStops : Obligations.EngineNeverStops := by
  rintro s hI (ht | ⟨v, rest, hh, hw⟩)
  · by_cases hr : (s.status.busy && !s.status.fatal) = true
    · obtain ⟨i, t, -, -, hs, hx, -⟩ := busy_engine_runs hI (Bool.and_eq_true .. ▸ hr).1 ht
      exact ⟨t, hs.trans hx⟩
    · exact ⟨_, step_waits ht (Bool.not_eq_true _ ▸ hr)⟩
  · by_cases hi : Idle s
    · rcases decode_code (v.setWidth 8) with ⟨i, q, hm⟩ | hd
      · exact ⟨_, by rw [step_of_cmd hm hi hh rfl, if_pos ((operandsWritten_iff _ s).2 (hw hi))]⟩
      · exact ⟨_, (stepRunsTheDecodedInstruction s).2.1 _ _ (fetch_of_cmd hi hh) hd hi.1⟩
    · exact ⟨_, step_of_cmd_ignored hi hh⟩

/-- Settles O45: a failed write runs the failure of the state that writes. -/
theorem failedWriteIsFatal : Obligations.FailedWriteIsFatal := by
  intro i s hd hl
  obtain ⟨op, q, ⟨hb, hf, ho, hq⟩, hbel, hX⟩ := due_running hd
  obtain ⟨c, args, next, hp, he, hx⟩ := writesFrame_of_due hd
  rw [emit_fails ((linkOk_writePrepared s.seq s).trans hl), emitted_eq_written, ← he, linkOk_writePrepared, hl,
    hq] at hx
  rw [seqPayload, hq] at hp
  subst ho
  cases q <;> try cases hp
  case riAck | riRetry | riAbort =>
    have hop : s.latch.op = 0x05#8 := eq_of_beq hbel
    refine ⟨_, hx, fun a ha => rawByte_loseBlock (s := written (encode i) false s) (ha (by rw [hq]; rfl)), ?_⟩
    simp only [hq, hop, hX, inBlock, if_true, if_false, reduceCtorEq, BitVec.reduceEq]
    exact blockFatal_frame (written (encode i) false s)
  case bnCmd | bnTest | bnConf =>
    have hop : s.latch.op = 0x03#8 := eq_of_beq hbel
    refine ⟨_, hx, fun _ _ => rfl, ?_⟩
    simp only [hq, hop, hX, inBlock, if_true, if_false, reduceCtorEq, Bool.false_eq_true]
    rfl
  case exTx | riX =>
    have hop := eq_of_beq hbel
    refine ⟨_, hx, fun _ _ => rfl, ?_⟩
    simp only [hq, hop, hX, inBlock, if_true, if_false, reduceCtorEq, Bool.false_eq_true, BitVec.reduceEq]
    rfl
  case dcTx =>
    have hop : s.latch.op ≠ 0x03#8 := by
      have := of_decide_eq_true hbel
      bv_omega
    refine ⟨_, hx, fun _ _ => rfl, ?_⟩
    simp only [hq, hop, hX, inBlock, if_false, reduceCtorEq, Bool.false_eq_true]
    rfl

/-- Settles O33, by what a read attempt can do; a lost block leaves the bytes outside it alone. -/
theorem shortBlockRead : Obligations.ShortBlockRead := by
  rintro s r ⟨hb, hf, ho, hq⟩ rfl
  have hx : exec .readimg s = .next (riBlk s) := runOperation_runs hb hf ho _ (by rw [readimgStep, hq])
  rw [hx]
  rcases riBlk_cases s with ⟨hc, ha, h⟩ | ⟨hc, ha, h⟩ | ⟨hc, hl, h⟩ | ⟨hc, ⟨hl, -⟩, -⟩ | ⟨hc, ⟨hl, -⟩, -⟩ |
    ⟨hc, ⟨hl, -⟩, -⟩
  · exact ⟨fun hn => absurd hc (by simp [hn]), fun _ _ => by rw [h, ha], fun _ hn => absurd ha hn⟩
  · exact ⟨fun hn => absurd hc (by simp [hn]), fun _ hn => absurd hn ha,
      fun _ _ => ⟨_, congrArg _ h, fun a ha => rawByte_loseBlock (s := s) ha, rfl⟩⟩
  · exact ⟨fun _ _ => ⟨_, congrArg _ h, fun a ha => rawByte_loseBlock (s := afterRead 8193 { s with lrcAcc := 0#8 }) ha,
      rfl⟩, fun hn => absurd hn (by simp [hc]), fun hn => absurd hn (by simp [hc])⟩
  all_goals exact ⟨fun _ hn => by omega, fun hn => absurd hn (by simp [hc]), fun hn => absurd hn (by simp [hc])⟩
end

section
/-! PROOFS. What a transition of the sequencer leaves alone, said once: at most one Transport call, sticky bits and log
records only added, operand registers and inputs untouched, and each result register written by its operation only. -/

namespace Sys2Proof.Machine

/-- From `s` to `t` the engine keeps what is not its own, and each result is written by its owner only (10_state R15 to
R32). -/
structure Keeps (s t : State) : Prop where
  sticky : s.esticky &&& t.esticky = s.esticky
  log : ∃ l, t.log = s.log ++ l
  latch : t.latch = s.latch
  cancel : t.cancel = s.cancel
  operands : t.argTicks = s.argTicks ∧ t.argFlags = s.argFlags ∧ t.argRate = s.argRate ∧ t.argLen = s.argLen ∧
    t.cfgReadyMax = s.cfgReadyMax ∧ t.txbuf = s.txbuf ∧ t.wrote = s.wrote
  baud : s.latch.op ≠ 0x03#8 → t.baudCur = s.baudCur ∧ t.baudPrev = s.baudPrev ∧ t.lineRate = s.lineRate
  resCks : s.latch.op ≠ 0x01#8 → t.resCks = s.resCks
  firmware : s.latch.op ≠ 0x15#8 → t.fwType = s.fwType ∧ t.fwMajor = s.fwMajor ∧ t.fwMinor = s.fwMinor
  subst : s.latch.op ≠ 0x05#8 → t.substCnt = s.substCnt ∧ t.substMap = s.substMap

/-- From `s` to `t` the Transport call `c` is made, or none, and one answer is used up exactly then (20_memory R46 to
R48). -/
structure Calls (c : Option LinkCall) (s t : State) : Prop where
  traffic : t.traffic = s.traffic ++ c.toList
  answers : t.answers = if c.isSome then s.answers.tail else s.answers
  draws : t.draws = if c.isSome && s.answers.isEmpty then s.draws + 1 else s.draws

/-- One move of the engine: its frame and its call. -/
def Moves (c : Option LinkCall) (s t : State) : Prop := Keeps s t ∧ Calls c s t

-- Composition

/-- Bits that are kept twice are kept. -/
theorem and_eq_left_trans {a b c : Word32} (h : a &&& b = a) (k : b &&& c = b) : a &&& c = a := by
  rw [← h, BitVec.and_assoc, k]

theorem Keeps.trans {s t u : State} (h : Keeps s t) (k : Keeps t u) : Keeps s u := by
  obtain ⟨l, hl⟩ := h.log
  obtain ⟨m, hm⟩ := k.log
  have hop := congrArg Latches.op h.latch
  have ho := h.operands
  have ko := k.operands
  refine ⟨and_eq_left_trans h.sticky k.sticky, ⟨l ++ m, by rw [hm, hl, List.append_assoc]⟩, k.latch.trans h.latch,
    k.cancel.trans h.cancel, by simp_all, fun hn => ?_, fun hn => (k.resCks (hop ▸ hn)).trans (h.resCks hn),
    fun hn => ?_, fun hn => ?_⟩
  · have hb := h.baud hn
    have kb := k.baud (hop ▸ hn)
    simp_all
  · have hb := h.firmware hn
    have kb := k.firmware (hop ▸ hn)
    simp_all
  · have hb := h.subst hn
    have kb := k.subst (hop ▸ hn)
    simp_all

theorem Calls.then_quiet {c : Option LinkCall} {s t u : State} (h : Calls c s t) (k : Calls none t u) : Calls c s u :=
  ⟨by rw [k.traffic, h.traffic]; simp, k.answers.trans h.answers, k.draws.trans h.draws⟩

theorem Calls.quiet_then {c : Option LinkCall} {s t u : State} (h : Calls none s t) (k : Calls c t u) :
    Calls c s u := by
  have ha : t.answers = s.answers := h.answers
  have hd : t.draws = s.draws := h.draws
  exact ⟨by rw [k.traffic, h.traffic]; simp, by rw [k.answers, ha], by rw [k.draws, hd, ha]⟩

/-- Bookkeeping after a move. -/
theorem Moves.then_quiet {c : Option LinkCall} {s t u : State} (h : Moves c s t) (k : Moves none t u) : Moves c s u :=
  ⟨h.1.trans k.1, h.2.then_quiet k.2⟩

/-- Bookkeeping before a move. -/
theorem Moves.quiet_then {c : Option LinkCall} {s t u : State} (h : Moves none s t) (k : Moves c t u) : Moves c s u :=
  ⟨h.1.trans k.1, h.2.quiet_then k.2⟩

-- The moves of each operation on the state

/-- What the engine may write at any time, and what its operation owns. -/
theorem moves_of_owned {s t : State}
    (h : t = { s with
      seq := t.seq, nblk := t.nblk, blk := t.blk, att := t.att, lastCmd := t.lastCmd, status := t.status, err := t.err
      rxlen := t.rxlen, polls := t.polls, rxbuf := t.rxbuf, cksAcc := t.cksAcc, cksEmpty := t.cksEmpty
      lrcAcc := t.lrcAcc, raw := t.raw, img := t.img, rawUnwritten := t.rawUnwritten, blkEpoch := t.blkEpoch
      rxEpoch := t.rxEpoch, baudCur := t.baudCur, baudPrev := t.baudPrev, lineRate := t.lineRate, resCks := t.resCks
      fwType := t.fwType, fwMajor := t.fwMajor, fwMinor := t.fwMinor, substCnt := t.substCnt, substMap := t.substMap })
    (baud : s.latch.op ≠ 0x03#8 → t.baudCur = s.baudCur ∧ t.baudPrev = s.baudPrev ∧ t.lineRate = s.lineRate)
    (resCks : s.latch.op ≠ 0x01#8 → t.resCks = s.resCks)
    (firmware : s.latch.op ≠ 0x15#8 → t.fwType = s.fwType ∧ t.fwMajor = s.fwMajor ∧ t.fwMinor = s.fwMinor)
    (subst : s.latch.op ≠ 0x05#8 → t.substCnt = s.substCnt ∧ t.substMap = s.substMap) : Moves none s t := by
  refine ⟨⟨?_, ⟨[], ?_⟩, ?_, ?_, ?_, baud, resCks, firmware, subst⟩, ?_, ?_, ?_⟩ <;> rw [h]
  · exact BitVec.and_self
  · exact (List.append_nil _).symm
  · exact ⟨rfl, rfl, rfl, rfl, rfl, rfl, rfl⟩
  · exact (List.append_nil _).symm
  all_goals rfl

/-- What the engine may write at any time, whatever the operation. -/
theorem moves_of_scratch {s t : State}
    (h : t = { s with
      seq := t.seq, nblk := t.nblk, blk := t.blk, att := t.att, lastCmd := t.lastCmd, status := t.status, err := t.err
      rxlen := t.rxlen, polls := t.polls, rxbuf := t.rxbuf, cksAcc := t.cksAcc, cksEmpty := t.cksEmpty
      lrcAcc := t.lrcAcc, raw := t.raw, img := t.img, rawUnwritten := t.rawUnwritten, blkEpoch := t.blkEpoch
      rxEpoch := t.rxEpoch }) : Moves none s t := by
  refine moves_of_owned ?_ ?_ ?_ ?_ ?_ <;> rw [h] <;> intros <;> trivial

theorem moves_refl (s : State) : Moves none s s := moves_of_scratch rfl

theorem moves_goto (q : Seq) (s : State) : Moves none s (goto q s) := moves_of_scratch rfl

theorem moves_complete (ok : Bool) (s : State) : Moves none s (complete ok s) := moves_of_scratch rfl

theorem moves_storeBlock (bytes : List Byte) (s : State) : Moves none s (storeBlock bytes s) := moves_of_scratch rfl

theorem moves_loseBlock (s : State) : Moves none s (loseBlock s) := moves_of_scratch rfl

theorem moves_decodeRaw (crop : Bool) (s : State) : Moves none s (decodeRaw crop s) := moves_of_scratch rfl

theorem moves_nextBlock (s : State) : Moves none s (nextBlock s) := moves_of_scratch rfl

/-- A bit set in `ESTICKY` keeps the others (10_state R15). -/
theorem and_stickySet (e : ErrKind) (w : Word32) : w &&& stickySet e w = w := by
  rw [stickySet]
  refine BitVec.eq_of_getLsbD_eq fun i _ => ?_
  rw [BitVec.getLsbD_and, BitVec.getLsbD_or]
  cases w.getLsbD i <;> simp

theorem moves_logError (e : ErrKind) (b : BitVec 7) (a : BitVec 3) (s : State) : Moves none s (logError e b a s) :=
  ⟨⟨and_stickySet e s.esticky, ⟨_, rfl⟩, rfl, rfl, ⟨rfl, rfl, rfl, rfl, rfl, rfl, rfl⟩, fun _ => ⟨rfl, rfl, rfl⟩,
    fun _ => rfl, fun _ => ⟨rfl, rfl, rfl⟩, fun _ => ⟨rfl, rfl⟩⟩, (List.append_nil _).symm, rfl, rfl⟩

theorem moves_raise (e : ErrKind) (b : BitVec 7) (a : BitVec 3) (s : State) : Moves none s (raise e b a s) :=
  (moves_logError e b a s).then_quiet (moves_of_scratch rfl)

theorem moves_callDone (c : LinkCall) (s : State) : Moves (some c) s (callDone c s) :=
  ⟨⟨BitVec.and_self, ⟨[], (List.append_nil _).symm⟩, rfl, rfl, ⟨rfl, rfl, rfl, rfl, rfl, rfl, rfl⟩,
    fun _ => ⟨rfl, rfl, rfl⟩, fun _ => rfl, fun _ => ⟨rfl, rfl, rfl⟩, fun _ => ⟨rfl, rfl⟩⟩, rfl, rfl, rfl⟩

theorem moves_afterRead (n : Nat) (s : State) : Moves (some (.read n (readLink n s))) s (afterRead n s) :=
  moves_callDone _ s

theorem moves_receive (n : Nat) (s : State) : Moves (some (.read n (readLink n s))) s (receive n s) :=
  (moves_afterRead n s).then_quiet (moves_of_scratch rfl)

theorem moves_emitted (c : Byte) (args : List Byte) (s : State) :
    Moves (some (.write (framed (c :: args)) (linkOk s))) s (emitted c args s) := by
  rw [emitted_eq_written]
  exact (moves_callDone _ s).then_quiet (moves_of_scratch rfl)

theorem moves_blockStored (s : State) : Moves (some (.read 8193 (readLink 8193 s))) s (blockStored s) :=
  ((moves_of_scratch rfl).quiet_then (moves_afterRead 8193 { s with lrcAcc := 0#8 })).then_quiet (moves_of_scratch rfl)

/-- The rates and the line belong to SETBAUD (10_state R22, R32). -/
theorem moves_of_setbaud {s : State} (ho : s.latch.op = 0x03#8) (cur prev : Rate) (line : Option Rate) :
    Moves none s { s with baudCur := cur, baudPrev := prev, lineRate := line } :=
  moves_of_owned rfl (fun h => absurd ho h) (fun _ => rfl) (fun _ => ⟨rfl, rfl, rfl⟩) (fun _ => ⟨rfl, rfl⟩)

theorem moves_afterSetBaud {s : State} (ho : s.latch.op = 0x03#8) (r : Rate) :
    Moves (some (.setBaud r (linkOk s))) s (afterSetBaud r s) :=
  (moves_callDone _ s).then_quiet (moves_of_setbaud (s := callDone (.setBaud r (linkOk s)) s) ho _ _ _)

theorem moves_baudFatal {s : State} (ho : s.latch.op = 0x03#8) : Moves none s (baudFatal s) :=
  (moves_of_setbaud ho _ _ none).then_quiet (moves_raise ..)

theorem moves_linkFatal (s : State) : Moves none s (linkFatal s) := moves_raise ..

theorem moves_blockFatal (s : State) : Moves none s (blockFatal s) := (moves_loseBlock s).then_quiet (moves_raise ..)

/-- The count and the map of substituted blocks belong to READIMG (10_state R21). -/
theorem moves_of_readimg {s : State} (ho : s.latch.op = 0x05#8) (n : BitVec 7) (m : BitVec 75) :
    Moves none s { s with substCnt := n, substMap := m } :=
  moves_of_owned rfl (fun _ => ⟨rfl, rfl, rfl⟩) (fun _ => rfl) (fun _ => ⟨rfl, rfl, rfl⟩) (fun h => absurd ho h)

/-- The firmware fields belong to FWQUERY (10_state R20). -/
theorem moves_setFw {s : State} (ho : s.latch.op = 0x15#8) (major minor : Byte) :
    Moves none s (setFw major minor s) :=
  moves_of_owned rfl (fun _ => ⟨rfl, rfl, rfl⟩) (fun _ => rfl) (fun h => absurd ho h) (fun _ => ⟨rfl, rfl⟩)

/-- `Emit` and what follows it make one call. -/
theorem moves_emit {s : State} {c : Byte} {args : List Byte} {next fail : State → State}
    (hn : ∀ u : State, u.latch = s.latch → Moves none u (next u))
    (hf : ∀ u : State, u.latch = s.latch → Moves none u (fail u)) : ∃ k, Moves k s (emit c args next fail s) := by
  rcases emit_cases c args next fail s with ⟨-, h⟩ | ⟨-, h⟩
  · exact ⟨_, h ▸ (moves_emitted c args s).then_quiet (hn _ (by simp))⟩
  · exact ⟨_, h ▸ (moves_emitted c args s).then_quiet (hf _ (by simp))⟩

-- The transitions

/-- Every transition of the sequencer is a move with at most one call. -/
theorem transition_moves {s t : State} (h : Transition s t) : ∃ c, Moves c s t := by
  cases h with
  | ckRun h =>
    rw [ckRun]
    split
    · exact ⟨_, moves_raise ..⟩
    · rw [cksAbsorbAll_eq]
      refine ⟨none, moves_of_owned rfl (fun _ => ⟨rfl, rfl, rfl⟩) (fun hn => absurd h.2.2.1 hn)
        (fun _ => ⟨rfl, rfl, rfl⟩) (fun _ => ⟨rfl, rfl⟩)⟩
  | sdTx h =>
    rw [sdTx]
    split
    · exact ⟨_, moves_raise ..⟩
    · split
      · exact ⟨_, moves_raise ..⟩
      · refine moves_emit (fun u _ => ?_) (fun u _ => moves_linkFatal u)
        split
        exacts [moves_complete .., moves_goto ..]
  | sdRx h =>
    rw [sdRx]
    split
    · exact ⟨_, (moves_receive ..).then_quiet (moves_complete ..)⟩
    · exact ⟨_, (moves_receive ..).then_quiet (moves_raise ..)⟩
  | bnCheck h =>
    rw [bnCheck]
    split
    · exact ⟨_, moves_raise ..⟩
    · exact ⟨_, (moves_of_setbaud h.2.2.1 s.baudCur s.baudCur s.lineRate).then_quiet (moves_goto ..)⟩
  | bnCmd r h => exact moves_emit (fun u _ => moves_goto ..) (fun u hu => moves_baudFatal (hu ▸ h.2.2.1))
  | bnTest h => exact moves_emit (fun u _ => moves_goto ..) (fun u hu => moves_baudFatal (hu ▸ h.2.2.1))
  | bnConf h => exact moves_emit (fun u _ => moves_complete ..) (fun u hu => moves_baudFatal (hu ▸ h.2.2.1))
  | bnRate r h =>
    have set := moves_afterSetBaud h.2.2.1 r
    rw [bnRate]
    split
    · exact ⟨_, (set.then_quiet (moves_of_setbaud (by exact h.2.2.1) r _ _)).then_quiet (moves_goto ..)⟩
    · exact ⟨_, set.then_quiet (moves_baudFatal (by exact h.2.2.1))⟩
  | bnAck h => exact ⟨_, (moves_afterRead 2 s).then_quiet (moves_goto ..)⟩
  | bnReply h =>
    rw [bnReply]
    split
    · exact ⟨_, (moves_receive 7 s).then_quiet (moves_goto ..)⟩
    · split
      · exact ⟨_, ((moves_receive 7 s).then_quiet (moves_logError ..)).then_quiet (moves_goto ..)⟩
      · exact ⟨_, (moves_receive 7 s).then_quiet (moves_goto ..)⟩
  | bnRoll h =>
    have set := moves_afterSetBaud h.2.2.1 s.baudPrev
    rw [bnRoll]
    split
    · exact ⟨_, (set.then_quiet (moves_of_setbaud (by exact h.2.2.1) s.baudPrev _ _)).then_quiet (moves_raise ..)⟩
    · exact ⟨_, set.then_quiet (moves_baudFatal (by exact h.2.2.1))⟩
  | exTx h =>
    obtain ⟨k, hk⟩ := moves_emit (s := { s with polls := 0#32 }) (c := 0x54#8) (args := exposureArgs s.latch)
      (fun u _ => moves_goto .exWait u) (fun u _ => moves_linkFatal u)
    exact ⟨k, (moves_of_scratch rfl).quiet_then hk⟩
  | exWait h =>
    rw [exWait]
    split
    · exact ⟨_, moves_raise ..⟩
    · split
      · exact ⟨_, moves_raise ..⟩
      · have read := (moves_of_scratch rfl).quiet_then (moves_afterRead 1 { s with polls := s.polls + 1#32 })
        dsimp only
        split
        · exact ⟨_, read.then_quiet (moves_complete ..)⟩
        · exact ⟨_, read.then_quiet (moves_goto ..)⟩
  | riX h =>
    obtain ⟨k, hk⟩ := moves_emit (s := { s with substCnt := 0#7, substMap := 0#75 }) (c := 0x58#8) (args := [])
      (fun u _ => moves_goto .riSync u) (fun u _ => moves_linkFatal u)
    exact ⟨k, (moves_of_readimg h.2.2.1 _ _).quiet_then hk⟩
  | riSync h =>
    rw [riSync]
    split
    · exact ⟨_, (moves_afterRead 1 s).then_quiet (moves_raise ..)⟩
    · exact ⟨_, (moves_afterRead 1 s).then_quiet (moves_of_scratch rfl)⟩
  | riBlk h =>
    have lost := moves_loseBlock s
    have read := (moves_of_scratch rfl).quiet_then (moves_afterRead 8193 { s with lrcAcc := 0#8 })
    have logged := (moves_blockStored s).then_quiet (moves_logError .checksumMismatch s.blk s.att _)
    rcases riBlk_cases s with ⟨-, -, h⟩ | ⟨-, -, h⟩ | ⟨-, -, h⟩ | ⟨-, -, h⟩ | ⟨-, -, -, h⟩ | ⟨-, -, -, h⟩ <;> rw [h]
    · exact ⟨_, moves_raise ..⟩
    · exact ⟨_, lost.then_quiet (moves_raise ..)⟩
    · exact ⟨_, (read.then_quiet (moves_loseBlock _)).then_quiet (moves_raise ..)⟩
    · exact ⟨_, (moves_blockStored s).then_quiet (moves_goto ..)⟩
    · exact ⟨_, logged.then_quiet (moves_goto ..)⟩
    · exact ⟨_, logged.then_quiet (moves_goto ..)⟩
  | riAck h => exact moves_emit (fun u _ => moves_nextBlock u) (fun u _ => moves_blockFatal u)
  | riRetry h => exact moves_emit (fun u _ => moves_of_scratch rfl) (fun u _ => moves_blockFatal u)
  | riAbort h =>
    refine moves_emit (fun u hu => ?_) (fun u _ => moves_blockFatal u)
    have ho : u.latch.op = 0x05#8 := by rw [hu]; exact h.2.2.1
    have stored := (moves_logError .blockTransferAborted u.blk u.att u).then_quiet
      (moves_storeBlock (List.replicate blockBytes 0#8) _)
    exact (stored.then_quiet (moves_of_readimg (by exact ho) _ _)).then_quiet (moves_nextBlock _)
  | riEpi h =>
    rw [riEpi]
    split
    · exact ⟨_, (moves_afterRead 5 s).then_quiet (moves_raise ..)⟩
    · exact ⟨_, (moves_afterRead 5 s).then_quiet (moves_goto ..)⟩
  | riDec h => exact ⟨_, (moves_decodeRaw _ s).then_quiet (moves_complete ..)⟩
  | deRun h => exact ⟨_, (moves_decodeRaw _ s).then_quiet (moves_complete ..)⟩
  | dcTx p h =>
    refine moves_emit (fun u _ => ?_) (fun u _ => moves_linkFatal u)
    split
    exacts [moves_complete .., moves_goto ..]
  | pingRx h =>
    rw [pingRx]
    split
    · exact ⟨_, (moves_receive 2 s).then_quiet (moves_raise ..)⟩
    · exact ⟨_, (moves_receive 2 s).then_quiet (moves_complete ..)⟩
  | fwRx h =>
    rw [fwRx]
    split
    · exact ⟨_, (moves_receive 2 s).then_quiet (moves_raise ..)⟩
    · exact ⟨_, ((moves_receive 2 s).then_quiet (moves_setFw (by exact h.2.2.1) _ _)).then_quiet (moves_complete ..)⟩

end Sys2Proof.Machine
end

section
/-! PROOFS. What a step leaves alone, whoever takes it, and the obligations about it. -/

namespace Sys2Proof.Machine

/-- What a step can do beside a transition and `reset`: no Transport call, no result touched, sticky bits and log
records only added. -/
structure Aside (s t : State) : Prop where
  calls : t.traffic = s.traffic ∧ t.answers = s.answers ∧ t.draws = s.draws
  sticky : s.esticky &&& t.esticky = s.esticky
  log : ∃ l, t.log = s.log ++ l
  baud : t.baudCur = s.baudCur ∧ t.baudPrev = s.baudPrev ∧ t.lineRate = s.lineRate
  resCks : t.resCks = s.resCks
  firmware : t.fwType = s.fwType ∧ t.fwMajor = s.fwMajor ∧ t.fwMinor = s.fwMinor

theorem HostAccess.aside {s t : State} (h : HostAccess s t) : Aside s t := by
  have noLog : ∃ l, s.log = s.log ++ l := ⟨[], (List.append_nil _).symm⟩
  cases h with
  | overrun => exact ⟨⟨rfl, rfl, rfl⟩, and_stickySet _ _, noLog, ⟨rfl, rfl, rfl⟩, rfl, rfl, rfl, rfl⟩
  | _ => exact ⟨⟨rfl, rfl, rfl⟩, BitVec.and_self, noLog, ⟨rfl, rfl, rfl⟩, rfl, rfl, rfl, rfl⟩

theorem aside_start (op : Byte) (q : Seq) (s : State) : Aside s (start op q s) :=
  ⟨⟨rfl, rfl, rfl⟩, BitVec.and_self, ⟨[], (List.append_nil _).symm⟩, ⟨rfl, rfl, rfl⟩, rfl, rfl, rfl, rfl⟩

theorem aside_startReserved (op : Byte) (s : State) : Aside s (startReserved op s) :=
  ⟨⟨rfl, rfl, rfl⟩, and_stickySet _ _, ⟨_, rfl⟩, ⟨rfl, rfl, rfl⟩, rfl, rfl, rfl, rfl⟩

/-- The host's action taken from its list is nothing the frame speaks of. -/
theorem Aside.of_popHost {s t : State} (h : Aside (popHost s) t) : Aside s t :=
  ⟨h.calls, h.sticky, h.log, h.baud, h.resCks, h.firmware⟩

/-- The frame of a step: `reset`, or nothing but additions, or one transition of a running operation. -/
theorem step_frame {s t : State} (h : step s = .next t) :
    (¬ NoReset s ∧ t = resetNow (popHost s)) ∨ Aside s t ∨
    (s.status.busy = true ∧ ∃ c, Moves c (popHost s) t) := by
  rcases step_kinds h with hr | ha | ⟨-, op, -, q, -, -, rfl⟩ | ⟨-, op, rfl⟩ | ⟨-, ht⟩
  · exact .inl hr
  · exact .inr (.inl ha.aside.of_popHost)
  · exact .inr (.inl (aside_start op q (popHost s)).of_popHost)
  · exact .inr (.inl (aside_startReserved op (popHost s)).of_popHost)
  · exact .inr (.inr ⟨ht.busy.1, transition_moves ht⟩)

/-- Everything a step on the engine's turn can do: wait, an overrun, or a transition. -/
theorem step_turn {s t : State} (ht : EngineTurn s) (h : step s = .next t) :
    t = popHost s ∨ t = overrun (popHost s) ∨ Transition (popHost s) t := by
  by_cases hr : (s.status.busy && !s.status.fatal) = true
  · have busy : ¬ Idle s := fun hi => by simp [hi.1] at hr
    rcases step_cases h with ⟨hh, rfl⟩ | ⟨a, rest, hh, hp⟩ | ⟨-, -, ho⟩ | ⟨hi, -⟩ | ⟨hi, -⟩ | ⟨-, htr⟩
    · rcases ht with _ | ⟨rest, h'⟩
      · exact .inl (by rw [popHost, hh, List.tail_nil, ← hh])
      · exact absurd (hh.symm.trans h') (by simp)
    · rcases ht with h' | ⟨_, h'⟩
      · exact absurd (h'.symm.trans hh) (by simp)
      · cases (List.cons.inj (h'.symm.trans hh)).1
        cases hp
        exact .inl rfl
    · exact .inr (.inl ho)
    · exact absurd hi busy
    · exact absurd hi busy
    · exact .inr (.inr htr)
  · rw [step_waits ht (Bool.not_eq_true _ ▸ hr)] at h
    cases h
    exact .inl rfl

end Sys2Proof.Machine

open Sys2Proof Sys2Proof.Machine

/-- Settles O52, by the frame of a step. -/
theorem oneTransportCallAStep : Obligations.OneTransportCallAStep := by
  intro s t h
  rcases step_frame h with ⟨-, rfl⟩ | ha | ⟨-, c, -, hc⟩
  · exact .inl ⟨rfl, rfl, rfl⟩
  · exact .inl ha.calls
  · cases c with
    | none => exact .inl ⟨hc.traffic.trans (List.append_nil _), hc.answers, hc.draws⟩
    | some c => exact .inr ⟨c, hc.traffic, hc.answers, by simpa [List.isEmpty_iff] using hc.draws⟩

/-- Settles O53, by the frame of a step. -/
theorem stickyBitsAndLogOnlyGrow : Obligations.StickyBitsAndLogOnlyGrow := by
  intro s t hr h
  rcases step_frame h with ⟨hn, -⟩ | ha | ⟨-, c, hk, -⟩
  · exact absurd hr hn
  · exact ⟨ha.sticky, ha.log⟩
  · exact ⟨hk.sticky, hk.log⟩

/-- Settles O54, by the frame of a step and by what the engine's turn can be. -/
theorem onlyTheirOwnersWriteRegisters : Obligations.OnlyTheirOwnersWriteRegisters := by
  intro s t hr h
  have owners : (¬ (s.status.busy = true ∧ s.latch.op = 0x03#8) →
        t.baudCur = s.baudCur ∧ t.baudPrev = s.baudPrev ∧ t.lineRate = s.lineRate) ∧
      (¬ (s.status.busy = true ∧ s.latch.op = 0x01#8) → t.resCks = s.resCks) ∧
      (¬ (s.status.busy = true ∧ s.latch.op = 0x15#8) →
        t.fwType = s.fwType ∧ t.fwMajor = s.fwMajor ∧ t.fwMinor = s.fwMinor) := by
    rcases step_frame h with ⟨hn, -⟩ | ha | ⟨hb, c, hk, -⟩
    · exact absurd hr hn
    · exact ⟨fun _ => ha.baud, fun _ => ha.resCks, fun _ => ha.firmware⟩
    · exact ⟨fun hn => hk.baud fun ho => hn ⟨hb, ho⟩, fun hn => hk.resCks fun ho => hn ⟨hb, ho⟩,
        fun hn => hk.firmware fun ho => hn ⟨hb, ho⟩⟩
  refine ⟨owners.1, owners.2.1, owners.2.2, fun ht => ?_⟩
  rcases step_turn ht h with rfl | rfl | htr
  · exact ⟨rfl, rfl, rfl, rfl, rfl, rfl, rfl⟩
  · exact ⟨rfl, rfl, rfl, rfl, rfl, rfl, rfl⟩
  · obtain ⟨c, hk, -⟩ := transition_moves htr
    exact hk.operands
end

section
/-! PROOFS. The engine on its turn reads no operand register, and `cancel` only at its two sample points: a step
commutes with giving these inputs other values. -/

namespace Sys2Proof.Machine

/-- Values for what only the host writes: the operand and configuration registers and the `cancel` level (10_state R16,
R23, R31). -/
structure HostInputs where
  ticks : BitVec 24
  flags : BitVec 3
  rate : Word32
  len : BitVec 16
  readyMax : Word32
  cancel : Bool

/-- The same engine with other host inputs. -/
def withInputs (x : HostInputs) (s : State) : State :=
  { withOperands x.ticks x.flags x.rate x.len x.readyMax s with cancel := x.cancel }

/-- The `cancel` level is the one `s` has, or `s` is at none of the two states that sample it (60_exceptions R199). -/
def Unsampled (x : HostInputs) (s : State) : Prop := x.cancel = s.cancel ∨ s.seq ≠ .exWait ∧ s.seq ≠ .riBlk

/-- An answer with its next state changed. -/
def mapNext (f : State → State) : Outcome → Outcome
  | .next s => .next (f s)
  | .fault r => .fault r
  | .refused r => .refused r

section
variable (x : HostInputs)

-- The shared operations

theorem cksAbsorbAll_withInputs (bs : List Byte) (s : State) :
    cksAbsorbAll bs (withInputs x s) = withInputs x (cksAbsorbAll bs s) := by
  induction bs generalizing s with
  | nil => rfl
  | cons b bs ih => exact ih (cksAbsorb b s)

theorem emitted_withInputs (c : Byte) (args : List Byte) (s : State) :
    emitted c args (withInputs x s) = withInputs x (emitted c args s) := by
  rw [emitted_eq_written, emitted_eq_written]
  rfl

theorem emit_withInputs (c : Byte) (args : List Byte) {next fail : State → State}
    (hn : ∀ u, next (withInputs x u) = withInputs x (next u))
    (hf : ∀ u, fail (withInputs x u) = withInputs x (fail u)) (s : State) :
    emit c args next fail (withInputs x s) = withInputs x (emit c args next fail s) := by
  rw [emit, emit, apply_ite (withInputs x), emitted_withInputs, hn, hf]
  rfl

/-- What follows a frame, with or without a reply to read. -/
theorem finish_withInputs (m : Nat) (q : Seq) (u : State) :
    (if m = 0 then complete true (withInputs x u) else goto q (withInputs x u)) =
      withInputs x (if m = 0 then complete true u else goto q u) := by
  rw [apply_ite (withInputs x)]
  rfl

theorem dcTx_withInputs (c : Byte) (args : List Byte) (m : Nat) (s : State) :
    dcTx c args m (withInputs x s) = withInputs x (dcTx c args m s) := by
  unfold dcTx
  exact emit_withInputs x c args (by exact finish_withInputs x m .dcRx) (by intro; rfl) s

-- The transitions

theorem ckRun_withInputs (s : State) : ckRun (withInputs x s) = withInputs x (ckRun s) := by
  unfold ckRun
  rw [apply_ite (withInputs x)]
  refine congrArg₂ (ite _) rfl ?_
  have absorbed := cksAbsorbAll_withInputs x (s.txbuf.take s.latch.txlen.toNat) (cksClear s)
  exact congrArg (fun t => complete true { t with resCks := cksValue t }) absorbed

theorem sdTx_withInputs (s : State) : sdTx (withInputs x s) = withInputs x (sdTx s) := by
  unfold sdTx
  rw [apply_ite (withInputs x)]
  refine congrArg₂ (ite _) rfl ?_
  show (match s.txbuf.take s.latch.txlen.toNat with | [] => _ | c :: args => _) = _
  cases s.txbuf.take s.latch.txlen.toNat with
  | nil => rfl
  | cons c args =>
    show emit c args _ linkFatal _ = withInputs x (emit c args _ linkFatal s)
    exact emit_withInputs x c args (by exact finish_withInputs x s.latch.resplen.toNat .sdRx) (by intro; rfl) s

theorem sdRx_withInputs (s : State) : sdRx (withInputs x s) = withInputs x (sdRx s) := by
  unfold sdRx
  rw [apply_ite (withInputs x)]
  rfl

theorem bnCheck_withInputs (s : State) : bnCheck (withInputs x s) = withInputs x (bnCheck s) := by
  show (match rateOf s.latch.rate with | none => _ | some _ => _) = _
  unfold bnCheck
  cases rateOf s.latch.rate <;> rfl

theorem bnRate_withInputs (r : Rate) (s : State) : bnRate r (withInputs x s) = withInputs x (bnRate r s) := by
  unfold bnRate
  rw [apply_ite (withInputs x)]
  rfl

theorem bnReply_withInputs (s : State) : bnReply (withInputs x s) = withInputs x (bnReply s) := by
  unfold bnReply
  dsimp only
  rw [apply_ite (withInputs x), apply_ite (withInputs x)]
  rfl

theorem bnRoll_withInputs (s : State) : bnRoll (withInputs x s) = withInputs x (bnRoll s) := by
  unfold bnRoll
  rw [apply_ite (withInputs x)]
  rfl

theorem exWait_withInputs {s : State} (hc : x.cancel = s.cancel) :
    exWait (withInputs x s) = withInputs x (exWait s) := by
  have hl : (withInputs x s).cancel = s.cancel := hc
  unfold exWait
  by_cases hs : s.cancel = true
  · rw [if_pos (hl.trans hs), if_pos hs]
    rfl
  · rw [if_neg (fun h => hs (hl.symm.trans h)), if_neg hs]
    dsimp only
    rw [apply_ite (withInputs x), apply_ite (withInputs x)]
    rfl

theorem riSync_withInputs (s : State) : riSync (withInputs x s) = withInputs x (riSync s) := by
  unfold riSync
  rw [apply_ite (withInputs x)]
  rfl

theorem riBlk_withInputs {s : State} (hc : x.cancel = s.cancel) :
    riBlk (withInputs x s) = withInputs x (riBlk s) := by
  have hl : (withInputs x s).cancel = s.cancel := hc
  unfold riBlk
  by_cases hs : s.cancel = true
  · rw [if_pos (hl.trans hs), if_pos hs]
    by_cases ha : s.att = 0#3
    · rw [if_pos (by exact ha), if_pos ha]
      rfl
    · rw [if_neg (by exact ha), if_neg ha]
      rfl
  · rw [if_neg (fun h => hs (hl.symm.trans h)), if_neg hs]
    dsimp only
    rw [apply_ite (withInputs x), apply_ite (withInputs x), apply_ite (withInputs x)]
    rfl

theorem riEpi_withInputs (s : State) : riEpi (withInputs x s) = withInputs x (riEpi s) := by
  unfold riEpi
  rw [apply_ite (withInputs x)]
  rfl

theorem pingRx_withInputs (s : State) : pingRx (withInputs x s) = withInputs x (pingRx s) := by
  unfold pingRx
  rw [apply_ite (withInputs x)]
  rfl

theorem fwRx_withInputs (s : State) : fwRx (withInputs x s) = withInputs x (fwRx s) := by
  unfold fwRx
  rw [apply_ite (withInputs x)]
  rfl

-- The operations and the frames

theorem mapNext_ite (p : Prop) [Decidable p] (a b : Outcome) :
    mapNext (withInputs x) (if p then a else b) =
      if p then mapNext (withInputs x) a else mapNext (withInputs x) b := apply_ite _ _ _ _

/-- A running operation commutes with the inputs if its transitions do. -/
theorem runOperation_withInputs {op : Byte} {first : Seq} {advance : State → Option State} {s : State}
    (hb : s.status.busy = true) (ha : advance (withInputs x s) = (advance s).map (withInputs x)) :
    runOperation op first advance (withInputs x s) = mapNext (withInputs x) (runOperation op first advance s) := by
  have hb' : (withInputs x s).status.busy = true := hb
  unfold runOperation
  rw [ha, if_pos hb, if_pos hb', mapNext_ite, mapNext_ite]
  cases advance s <;> rfl

theorem whenDue_withInputs (d : Bool) {f : State → State} {s : State} (hf : f (withInputs x s) = withInputs x (f s)) :
    whenDue d f (withInputs x s) = mapNext (withInputs x) (whenDue d f s) := by
  unfold whenDue
  rw [hf, mapNext_ite]
  rfl

theorem dcOnly_withInputs (c : Byte) (args : List Byte) (s : State) :
    dcOnly c args (withInputs x s) = (dcOnly c args s).map (withInputs x) := by
  unfold dcOnly
  rw [dcTx_withInputs, apply_ite (Option.map (withInputs x))]
  rfl

theorem dcReply_withInputs (c : Byte) {rx : State → State} {s : State}
    (hr : rx (withInputs x s) = withInputs x (rx s)) :
    dcReply c rx (withInputs x s) = (dcReply c rx s).map (withInputs x) := by
  have hq : (withInputs x s).seq = s.seq := rfl
  unfold dcReply
  rw [dcTx_withInputs, hr, hq]
  cases s.seq <;> rfl

theorem sendStep_withInputs (s : State) : sendStep (withInputs x s) = (sendStep s).map (withInputs x) := by
  have hq : (withInputs x s).seq = s.seq := rfl
  unfold sendStep
  rw [sdTx_withInputs, sdRx_withInputs, hq]
  cases s.seq <;> rfl

theorem bnCmd_withInputs (r : Rate) (s : State) : bnCmd r (withInputs x s) = withInputs x (bnCmd r s) :=
  emit_withInputs x _ _ (by intro; rfl) (by intro; rfl) s

theorem bnTest_withInputs (s : State) : bnTest (withInputs x s) = withInputs x (bnTest s) :=
  emit_withInputs x _ _ (by intro; rfl) (by intro; rfl) s

theorem bnConf_withInputs (s : State) : bnConf (withInputs x s) = withInputs x (bnConf s) :=
  emit_withInputs x _ _ (by intro; rfl) (by intro; rfl) s

theorem exTx_withInputs (s : State) : exTx (withInputs x s) = withInputs x (exTx s) :=
  emit_withInputs x _ _ (by intro; rfl) (by intro; rfl) { s with polls := 0#32 }

theorem riX_withInputs (s : State) : riX (withInputs x s) = withInputs x (riX s) :=
  emit_withInputs x _ _ (by intro; rfl) (by intro; rfl) { s with substCnt := 0#7, substMap := 0#75 }

theorem riAck_withInputs (s : State) : riAck (withInputs x s) = withInputs x (riAck s) :=
  emit_withInputs x _ _ (by intro; rfl) (by intro; rfl) s

theorem riRetry_withInputs (s : State) : riRetry (withInputs x s) = withInputs x (riRetry s) :=
  emit_withInputs x _ _ (by intro; rfl) (by intro; rfl) s

theorem riAbort_withInputs (s : State) : riAbort (withInputs x s) = withInputs x (riAbort s) :=
  emit_withInputs x _ _ (by intro; rfl) (by intro; rfl) s

theorem setbaudStep_withInputs (s : State) : setbaudStep (withInputs x s) = (setbaudStep s).map (withInputs x) := by
  have hq : (withInputs x s).seq = s.seq := rfl
  have hr : (withInputs x s).latch = s.latch := rfl
  unfold setbaudStep
  rw [bnCheck_withInputs, bnTest_withInputs, bnReply_withInputs, bnConf_withInputs, bnRoll_withInputs, hq, hr]
  cases s.seq
  case bnCmd => simp [Option.map_map, Function.comp_def, bnCmd_withInputs]
  case bnRate => simp [Option.map_map, Function.comp_def, bnRate_withInputs]
  all_goals rfl

theorem startexpStep_withInputs {s : State} (h : Unsampled x s) :
    startexpStep (withInputs x s) = (startexpStep s).map (withInputs x) := by
  have hq : (withInputs x s).seq = s.seq := rfl
  unfold startexpStep
  rw [exTx_withInputs, hq]
  cases hs : s.seq
  case exWait => exact congrArg some (exWait_withInputs x (h.resolve_right fun hn => hn.1 hs))
  all_goals rfl

theorem readimgStep_withInputs {s : State} (h : Unsampled x s) :
    readimgStep (withInputs x s) = (readimgStep s).map (withInputs x) := by
  have hq : (withInputs x s).seq = s.seq := rfl
  unfold readimgStep
  rw [riX_withInputs, riSync_withInputs, riAck_withInputs, riRetry_withInputs, riAbort_withInputs, riEpi_withInputs, hq]
  cases hs : s.seq
  case riBlk => exact congrArg some (riBlk_withInputs x (h.resolve_right fun hn => hn.2 hs))
  all_goals rfl

/-- While an operation runs, every instruction commutes with the host inputs, but where `cancel` is sampled. -/
theorem exec_withInputs {s : State} (hb : s.status.busy = true) (h : Unsampled x s) (i : Instr) :
    exec i (withInputs x s) = mapNext (withInputs x) (exec i s) := by
  cases i with
  | cksum =>
    refine runOperation_withInputs (advance := fun s => if s.seq = .ckRun then some (ckRun s) else none) x hb ?_
    rw [ckRun_withInputs, apply_ite (Option.map (withInputs x))]
    rfl
  | decodePix =>
    refine runOperation_withInputs (advance := fun s => if s.seq = .deRun then some (deRun s) else none) x hb ?_
    rw [apply_ite (Option.map (withInputs x))]
    rfl
  | send => exact runOperation_withInputs x hb (sendStep_withInputs x s)
  | setbaud => exact runOperation_withInputs x hb (setbaudStep_withInputs x s)
  | startexp => exact runOperation_withInputs x hb (startexpStep_withInputs x h)
  | readimg => exact runOperation_withInputs x hb (readimgStep_withInputs x h)
  | ping => exact runOperation_withInputs x hb (dcReply_withInputs x _ (pingRx_withInputs x s))
  | fwquery => exact runOperation_withInputs x hb (dcReply_withInputs x _ (fwRx_withInputs x s))
  | shopen | shclose | shdeen | abortexp => exact runOperation_withInputs x hb (dcOnly_withInputs x _ _ s)
  | heater | chop => exact runOperation_withInputs x hb (dcOnly_withInputs x _ _ s)
  | frameE | frameO | frameC | frameA | frameV => exact whenDue_withInputs x _ (dcTx_withInputs x _ _ _ s)
  | frameG0 | frameG1 | frameU0 | frameU1 => exact whenDue_withInputs x _ (dcTx_withInputs x _ _ _ s)
  | frameK =>
    simp only [exec, execFrameK]
    rw [mapNext_ite, dcTx_withInputs, whenDue_withInputs x _ (riAck_withInputs x s)]
    rfl
  | frameB0 | frameB1 | frameB2 | frameB3 | frameB4 | frameB5 | frameB6 =>
    exact whenDue_withInputs x _ (bnCmd_withInputs x _ s)
  | frameTest => exact whenDue_withInputs x _ (bnTest_withInputs x s)
  | frameKconf => exact whenDue_withInputs x _ (bnConf_withInputs x s)
  | frameT => exact whenDue_withInputs x _ (exTx_withInputs x s)
  | frameX => exact whenDue_withInputs x _ (riX_withInputs x s)
  | frameR => exact whenDue_withInputs x _ (riRetry_withInputs x s)
  | frameS => exact whenDue_withInputs x _ (riAbort_withInputs x s)

/-- On the engine's turn a step commutes with the host inputs, but where `cancel` is sampled. -/
theorem step_withInputs {s : State} (ht : EngineTurn s) (h : Unsampled x s) :
    step (withInputs x s) = mapNext (withInputs x) (step s) := by
  by_cases hr : (s.status.busy && !s.status.fatal) = true
  · have hb : s.status.busy = true := (Bool.and_eq_true .. ▸ hr).1
    have word : seqWord (withInputs x s) = seqWord s := by
      have payload : seqPayload (withInputs x s) = seqPayload s := rfl
      unfold seqWord
      rw [payload]
      cases seqPayload s with
      | none => rfl
      | some p => exact (emitFrame_eq p.1 p.2 _).trans (emitFrame_eq p.1 p.2 s).symm
    have fetched : fetch s = some (seqWord s) := by rw [fetch_of_turn ht, if_pos hr]
    have fetched' : fetch (withInputs x s) = some (seqWord s) := by
      rw [fetch_of_turn (s := withInputs x s) ht, word]
      exact if_pos hr
    simp only [step, fetched, fetched']
    cases decode (seqWord s) with
    | ok i => exact exec_withInputs x (s := popHost s) hb h i
    | error e =>
      simp only [undecoded]
      split
      · rw [if_pos (by exact hb), if_pos (by exact hb)]
        rfl
      · rfl
  · have hr := Bool.not_eq_true _ ▸ hr
    rw [step_waits ht hr, step_waits (s := withInputs x s) ht hr]
    rfl

end

/-- On its turn the engine leaves all host inputs alone. -/
theorem turn_keeps_inputs {s t : State} (ht : EngineTurn s) (h : step s = .next t) :
    t.cancel = s.cancel ∧ t.argTicks = s.argTicks ∧ t.argFlags = s.argFlags ∧ t.argRate = s.argRate ∧
      t.argLen = s.argLen ∧ t.cfgReadyMax = s.cfgReadyMax := by
  rcases step_turn ht h with rfl | rfl | htr
  · exact ⟨rfl, rfl, rfl, rfl, rfl, rfl⟩
  · exact ⟨rfl, rfl, rfl, rfl, rfl, rfl⟩
  · obtain ⟨c, hk, -⟩ := transition_moves htr
    obtain ⟨h1, h2, h3, h4, h5, -⟩ := hk.operands
    exact ⟨hk.cancel, h1, h2, h3, h4, h5⟩

end Sys2Proof.Machine

open Sys2Proof Sys2Proof.Machine

/-- Settles O55: other operand registers, the same `cancel` level. -/
theorem runningOperationReadsItsLatches : Obligations.RunningOperationReadsItsLatches := by
  intro s t ticks flags rate len readyMax _ ht h
  have hc := (turn_keeps_inputs ht h).1
  have hs := step_withInputs ⟨ticks, flags, rate, len, readyMax, s.cancel⟩ ht (.inl rfl)
  rw [h] at hs
  refine hs.trans (congrArg Host.Outcome.next ?_)
  rw [withInputs, ← hc]
  rfl

/-- Settles O56: another `cancel` level, the same operand registers. -/
theorem cancelIsSampledAtTwoPoints : Obligations.CancelIsSampledAtTwoPoints := by
  intro s t level hw hb ht h
  obtain ⟨-, h1, h2, h3, h4, h5⟩ := turn_keeps_inputs ht h
  have hs := step_withInputs ⟨s.argTicks, s.argFlags, s.argRate, s.argLen, s.cfgReadyMax, level⟩ ht (.inr ⟨hw, hb⟩)
  rw [h] at hs
  refine hs.trans (congrArg Host.Outcome.next ?_)
  rw [withInputs, withOperands, ← h1, ← h2, ← h3, ← h4, ← h5]
end

section
/-! PROOFS. The invariant of the machine, as the facts that hold whatever the sequencer does (`Sound`) and the facts of
the present state of the sequencer (`StageOk`), and that every step keeps it. -/

namespace Sys2Proof.Machine

-- The invariant in two halves

/-- The counters are in their ranges (10_state R21, R24). -/
def CountsOk (nblk blk : BitVec 7) (att : BitVec 3) (subst : BitVec 7) : Prop :=
  att ≤ 5#3 ∧ blk ≤ nblk ∧ nblk ≤ 75#7 ∧ subst ≤ 75#7

/-- The buffers have their sizes (10_state R18, R27). -/
def BuffersOk (txbuf rxbuf : List Byte) (rxlen : Byte) : Prop :=
  txbuf.length = Config.txBufBytes ∧ rxbuf.length = Config.rxBufBytes ∧ rxlen.toNat ≤ Config.rxBufBytes

/-- `RAW` and its unwritten addresses are canonical, inside the memory, and disjoint (10_state R35; 20_memory R40). -/
structure RawOk (raw : Memory 8) (unwritten : Ranges) : Prop where
  wf : Memory.wf raw = true
  within : Memory.within rawBytes raw = true
  unwritten_wf : Ranges.wf unwritten = true
  unwritten_in : ∀ x ∈ unwritten, x.2 ≤ rawBytes
  disjoint : ∀ c ∈ raw, Ranges.has unwritten c.1 = false

/-- `IMG` is canonical and inside the memory (20_memory R40). -/
def ImgOk (img : Memory 16) : Prop := Memory.wf img = true ∧ Memory.within imgWords img = true

/-- What holds in every state, whatever the sequencer does. -/
structure Sound (s : State) : Prop where
  sticky : s.esticky &&& 0xFFFFF801#32 = 0#32
  counts : CountsOk s.nblk s.blk s.att s.substCnt
  buffers : BuffersOk s.txbuf s.rxbuf s.rxlen
  raw : RawOk s.raw s.rawUnwritten
  img : ImgOk s.img

/-- A block is in progress: the image's block count, the index below it, and every earlier block written (44_transfer
R142, R148; 10_state R35). -/
def BlockOk (s : State) : Prop :=
  s.nblk = blockCount s.latch.crop ∧ s.blk < s.nblk ∧ s.substCnt ≤ s.blk ∧
    Ranges.noneBelow s.rawUnwritten (blockBytes * s.blk.toNat) = true

/-- Every byte that the decode of the latched image reads is written (10_state R35; 45_decoder R167). -/
def StreamOk (s : State) : Prop := Ranges.noneBelow s.rawUnwritten (streamBytes s.latch.crop) = true

/-- What holds of a running operation whose sequencer is at `q`. -/
def StageOk (q : Seq) (s : State) : Prop :=
  match q with
  | .sdRx => 0 < s.latch.resplen.toNat ∧ s.latch.resplen.toNat ≤ Config.rxBufBytes
  | .bnCmd | .bnRate | .bnAck | .bnTest | .bnReply | .bnConf | .bnRoll => (rateOf s.latch.rate).isSome = true
  | .exWait => s.polls ≤ s.latch.readyMax
  | .riSync => s.substCnt = 0#7
  | .riBlk => BlockOk s
  | .riAck => BlockOk s ∧ Ranges.noneBelow s.rawUnwritten (blockBytes * s.blk.toNat + blockBytes) = true
  | .riRetry => BlockOk s ∧ s.att < 5#3
  | .riAbort => BlockOk s ∧ s.att = 5#3
  | .riEpi => s.blk = s.nblk ∧ StreamOk s
  | .riDec | .deRun => StreamOk s
  | _ => True

/-- No operation runs: the sequencer is in `IDLE`, or in `FATAL` and the flag is set (10_state R14). -/
def Resting (s : State) : Prop :=
  s.status.busy = false ∧
    (s.seq = .idle ∧ s.status.fatal = false ∨ s.seq = .fatal ∧ s.status.fatal = true)

/-- An operation runs, in a state of its own whose facts hold (10_state R12 to R14). -/
structure Working (s : State) : Prop where
  busy : s.status.busy = true
  done : s.status.done = false
  fatal : s.status.fatal = false
  err : s.err = ErrReg.none
  seq_op : belongsTo s.seq s.latch.op = true
  stage : StageOk s.seq s

/-- The invariant gives the facts of the present stage. -/
theorem Inv.stageOk {s : State} (h : Inv s) : StageOk s.seq s := by
  have block (hq : inBlock s.seq = true) : BlockOk s := by
    obtain ⟨h1, h2, h3⟩ := h.in_block hq
    exact ⟨h1, h2, h3, h.blocks_written hq⟩
  have rate := h.rate_ok
  cases hq : s.seq <;> rw [hq] at block rate
  case sdRx => exact h.resp_ok hq
  case bnCmd | bnRate | bnAck | bnTest | bnReply | bnConf | bnRoll => exact rate rfl
  case exWait => exact h.polls_le hq
  case riSync => exact h.subst_sync hq
  case riBlk => exact block rfl
  case riAck => exact ⟨block rfl, h.accepted_written hq⟩
  case riRetry => exact ⟨block rfl, h.retry_att hq⟩
  case riAbort => exact ⟨block rfl, h.abort_att hq⟩
  case riEpi => exact ⟨h.epi_blk hq, h.stream_written (.inl hq)⟩
  case riDec => exact h.stream_written (.inr (.inl hq))
  case deRun => exact h.stream_written (.inr (.inr hq))
  all_goals trivial

theorem Inv.sound {s : State} (h : Inv s) : Sound s :=
  ⟨h.sticky_bits, ⟨h.att_le, h.blk_le, h.nblk_le, h.subst_le⟩, ⟨h.tx_size, h.rx_size, h.rx_len⟩,
    ⟨h.raw_wf, h.raw_in, h.unwritten_wf, h.unwritten_in, h.unwritten_raw⟩, ⟨h.img_wf, h.img_in⟩⟩

theorem Inv.resting_or_working {s : State} (h : Inv s) : Resting s ∨ Working s := by
  cases hb : s.status.busy with
  | true =>
    exact .inr ⟨hb, by simpa [hb] using h.busy_done, by simpa [hb] using h.busy_fatal, h.err_clear hb, h.seq_op hb,
      h.stageOk⟩
  | false =>
    refine .inl ⟨hb, ?_⟩
    cases hf : s.status.fatal with
    | true => exact .inr ⟨h.fatal_iff.2 hf, rfl⟩
    | false => exact .inl ⟨h.idle_iff.2 ⟨hb, hf⟩, rfl⟩

theorem StageOk.block {q : Seq} {s : State} (h : StageOk q s) (hq : inBlock q = true) : BlockOk s := by
  cases q <;> try cases hq
  case riBlk => exact h
  case riAck | riRetry | riAbort => exact h.1

theorem stageOk_afterCheck {q : Seq} (hq : afterCheck q = true) (s : State) :
    StageOk q s ↔ (rateOf s.latch.rate).isSome = true := by
  cases q <;> try cases hq
  all_goals exact Iff.rfl

theorem belongsTo_afterCheck {q : Seq} (hq : afterCheck q = true) : belongsTo q 0x03#8 = true := by
  cases q <;> try cases hq
  all_goals rfl

/-- The flags and the sequencer agree in both halves. -/
theorem seq_flags {s : State} (hr : Resting s ∨ Working s) :
    (s.seq = .idle ↔ Idle s) ∧ (s.seq = .fatal ↔ s.status.fatal = true) ∧
      (s.status.busy && s.status.done) = false ∧ (s.status.busy && s.status.fatal) = false := by
  rcases hr with ⟨hb, ⟨hq, hf⟩ | ⟨hq, hf⟩⟩ | h
  · simp [hb, hq, hf, Idle]
  · simp [hb, hq, hf, Idle]
  · have hq : s.seq ≠ .idle ∧ s.seq ≠ .fatal := by
      constructor <;> intro hq <;> have ho := h.seq_op <;> rw [hq] at ho <;> cases ho
    simp [h.busy, h.done, h.fatal, hq, Idle]

/-- The two halves give the invariant back. -/
theorem Inv.of_sound {s : State} (h : Sound s) (hr : Resting s ∨ Working s) : Inv s := by
  have stage : StageOk s.seq s := by
    rcases hr with ⟨-, ⟨hq, -⟩ | ⟨hq, -⟩⟩ | h
    · rw [hq]; trivial
    · rw [hq]; trivial
    · exact h.stage
  have at_stage {q : Seq} (hq : s.seq = q) : StageOk q s := hq ▸ stage
  have running (hb : s.status.busy = true) : Working s :=
    hr.resolve_left fun hn => Bool.false_ne_true (hn.1.symm.trans hb)
  obtain ⟨idle_iff, fatal_iff, busy_done, busy_fatal⟩ := seq_flags hr
  obtain ⟨att_le, blk_le, nblk_le, subst_le⟩ := h.counts
  obtain ⟨tx_size, rx_size, rx_len⟩ := h.buffers
  exact
    { idle_iff, fatal_iff, busy_done, busy_fatal, att_le, blk_le, nblk_le, subst_le, tx_size, rx_size, rx_len
      seq_op := fun hb => (running hb).seq_op
      err_clear := fun hb => (running hb).err
      sticky_bits := h.sticky
      in_block := fun hq => by
        obtain ⟨h1, h2, h3, -⟩ := stage.block hq
        exact ⟨h1, h2, h3⟩
      retry_att := fun hq => (at_stage hq).2
      abort_att := fun hq => (at_stage hq).2
      epi_blk := fun hq => (at_stage hq).1
      subst_sync := fun hq => at_stage hq
      polls_le := fun hq => at_stage hq
      rate_ok := fun hq => (stageOk_afterCheck hq s).1 stage
      resp_ok := fun hq => at_stage hq
      raw_wf := h.raw.wf
      raw_in := h.raw.within
      img_wf := h.img.1
      img_in := h.img.2
      unwritten_wf := h.raw.unwritten_wf
      unwritten_in := h.raw.unwritten_in
      unwritten_raw := h.raw.disjoint
      blocks_written := fun hq => (stage.block hq).2.2.2
      accepted_written := fun hq => (at_stage hq).2
      stream_written := by
        rintro (hq | hq | hq)
        exacts [(at_stage hq).2, at_stage hq, at_stage hq] }

end Sys2Proof.Machine
end

section
/-! PROOFS. Which operations on the state keep `Sound`, and the three ways in which a transition can end. -/

namespace Sys2Proof.Machine

-- The memories

/-- With everything below `a` written, a write of `n` at `a` leaves everything below `a + n` written. -/
theorem Ranges.noneBelow_remove {g : Ranges} {a : Nat} (h : Ranges.noneBelow g a = true) (n : Nat) :
    Ranges.noneBelow (Ranges.remove g a n) (a + n) = true := by
  rw [Ranges.noneBelow_iff] at h ⊢
  intro b hb
  rw [Ranges.has_remove]
  by_cases hl : b < a
  · simp [h b hl]
  · simp [show a ≤ b by omega, hb]

/-- What is written stays written. -/
theorem Ranges.noneBelow_of_remove {g : Ranges} {m : Nat} (h : Ranges.noneBelow g m = true) (a n : Nat) :
    Ranges.noneBelow (Ranges.remove g a n) m = true := by
  rw [Ranges.noneBelow_iff] at h ⊢
  intro b hb
  rw [Ranges.has_remove, h b hb, Bool.false_and]

/-- A write into `RAW` that counts as written keeps the memory and its unwritten addresses in agreement. -/
theorem RawOk.put {raw : Memory 8} {g : Ranges} (h : RawOk raw g) {a : Nat} {bytes : List Byte} (h0 : 0 < bytes.length)
    (hin : a + bytes.length ≤ rawBytes) : RawOk (Memory.put raw a bytes) (Ranges.remove g a bytes.length) where
  wf := Memory.put_wf h.wf a bytes
  within := Memory.put_within h.within hin
  unwritten_wf := Ranges.remove_wf h.unwritten_wf a h0
  unwritten_in := Ranges.remove_in h.unwritten_in a _
  disjoint := by
    intro c hc
    rw [Ranges.has_remove]
    simp only [Memory.put, List.mem_append, List.mem_filter] at hc
    rcases hc with (⟨hc, -⟩ | hc) | ⟨hc, -⟩
    · rw [h.disjoint c hc, Bool.false_and]
    · obtain ⟨hl, hr⟩ := Memory.mem_cellsFrom hc
      simp [hl, hr]
    · rw [h.disjoint c hc, Bool.false_and]

/-- `n` rows of at most `cols` samples. -/
theorem length_flatten_rowsOf_le {α : Type} (cols n : Nat) (l : List α) :
    (rowsOf cols n l).flatten.length ≤ n * cols := by
  induction n generalizing l with
  | zero => simp [rowsOf]
  | succ n ih =>
    have := ih (l.drop cols)
    rw [rowsOf, List.flatten_cons, List.length_append, List.length_take, Nat.succ_mul]
    omega

/-- A decoded image fits into `IMG` (10_state R29). -/
theorem length_decodeImage_le (order : PixOrder) (crop : Bool) (bytes : List Byte) :
    (decodeImage order (imageCols crop) bytes).length ≤ imgWords := by
  have hl := length_flatten_rowsOf_le (imageCols crop) imageRows (samples order bytes)
  have hr : (decodeImage order (imageCols crop) bytes).length =
      (rowsOf (imageCols crop) imageRows (samples order bytes)).flatten.length := by
    simp [decodeImage, List.length_flatten, List.sum_reverse]
  rw [hr]
  refine hl.trans ?_
  cases crop <;> decide

-- `Sound`

/-- The bits of `ESTICKY` that read 0 are no error's (10_state R15; 60_exceptions R191). -/
theorem stickySet_mask {w : Word32} (e : ErrKind) (h : w &&& 0xFFFFF801#32 = 0#32) :
    stickySet e w &&& 0xFFFFF801#32 = 0#32 := by
  have bit : (1#32 <<< e.code.toNat) &&& 0xFFFFF801#32 = 0#32 := by cases e <;> decide
  rw [stickySet, BitVec.and_or_distrib_right, h, bit]
  rfl

section
variable {s : State}

theorem Sound.popHost (h : Sound s) : Sound (popHost s) := ⟨h.sticky, h.counts, h.buffers, h.raw, h.img⟩

theorem Sound.goto (h : Sound s) (q : Seq) : Sound (goto q s) := ⟨h.sticky, h.counts, h.buffers, h.raw, h.img⟩

theorem Sound.complete (h : Sound s) (ok : Bool) : Sound (complete ok s) :=
  ⟨h.sticky, h.counts, h.buffers, h.raw, h.img⟩

theorem Sound.logError (h : Sound s) (e : ErrKind) (b : BitVec 7) (a : BitVec 3) : Sound (logError e b a s) :=
  ⟨stickySet_mask e h.sticky, h.counts, h.buffers, h.raw, h.img⟩

theorem Sound.raise (h : Sound s) (e : ErrKind) (b : BitVec 7) (a : BitVec 3) : Sound (raise e b a s) :=
  ⟨stickySet_mask e h.sticky, h.counts, h.buffers, h.raw, h.img⟩

theorem Sound.start (h : Sound s) (op : Byte) (q : Seq) : Sound (start op q s) :=
  ⟨h.sticky, h.counts, ⟨h.buffers.1, h.buffers.2.1, Nat.zero_le _⟩, h.raw, h.img⟩

theorem Sound.afterRead (h : Sound s) (n : Nat) : Sound (afterRead n s) :=
  ⟨h.sticky, h.counts, h.buffers, h.raw, h.img⟩

theorem Sound.afterSetBaud (h : Sound s) (r : Rate) : Sound (afterSetBaud r s) :=
  ⟨h.sticky, h.counts, h.buffers, h.raw, h.img⟩

theorem Sound.emitted (h : Sound s) (c : Byte) (args : List Byte) : Sound (emitted c args s) := by
  rw [emitted_eq_written]
  exact ⟨h.sticky, h.counts, h.buffers, h.raw, h.img⟩

/-- A response of at most 16 bytes fits into `RXBUF` (10_state R18). -/
theorem Sound.receive (h : Sound s) {n : Nat} (hn : n ≤ Config.rxBufBytes) : Sound (receive n s) := by
  have hl := readLink_length_le n s
  refine ⟨h.sticky, h.counts, ⟨h.buffers.1, rxStore_length _ _, ?_⟩, h.raw, h.img⟩
  rw [receive_rxlen, BitVec.toNat_ofNat]
  exact (Nat.mod_le _ _).trans (hl.trans hn)

/-- A block below the block count lies inside `RAW` (10_state R28). -/
theorem block_inside (hb : s.blk < 75#7) : blockBase s + 8192 ≤ rawBytes := by
  have : s.blk.toNat < 75 := hb
  simp only [blockBase, blockBytes, rawBytes]
  omega

theorem Sound.storeBlock (h : Sound s) {bytes : List Byte} (hl : bytes.length = 8192) (hb : s.blk < 75#7) :
    Sound (storeBlock bytes s) := by
  refine ⟨h.sticky, h.counts, h.buffers, ?_, h.img⟩
  have := h.raw.put (a := blockBase s) (bytes := bytes) (by omega) (by rw [hl]; exact block_inside hb)
  rw [hl] at this
  exact this

theorem Sound.loseBlock (h : Sound s) (hb : s.blk < 75#7) : Sound (loseBlock s) := by
  have := h.storeBlock (lostBytes_length (s.blkEpoch + 1) (blockBase s)) hb
  exact ⟨this.sticky, this.counts, this.buffers, this.raw, this.img⟩

/-- A full read of a block inside `RAW` is stored there. -/
theorem Sound.blockStored (h : Sound s) (hl : (readLink 8193 s).length = 8193) (hb : s.blk < 75#7) :
    Sound (Machine.blockStored s) := by
  have hs : Sound (Machine.afterRead 8193 { s with lrcAcc := 0#8 }) := ⟨h.sticky, h.counts, h.buffers, h.raw, h.img⟩
  have stored := hs.storeBlock (bytes := (readLink 8193 s).take blockBytes) (by rw [List.length_take, hl]; rfl) hb
  exact ⟨stored.sticky, stored.counts, stored.buffers, stored.raw, stored.img⟩

theorem Sound.decodeRaw (h : Sound s) (crop : Bool) : Sound (decodeRaw crop s) := by
  refine ⟨h.sticky, h.counts, h.buffers, h.raw, Memory.put_wf h.img.1 _ _, Memory.put_within h.img.2 ?_⟩
  rw [Nat.zero_add]
  exact length_decodeImage_le ..

-- How a transition ends

/-- An error end of a running operation. -/
theorem inv_raise (h : Sound s) (hf : s.status.fatal = false) (e : ErrKind) (b : BitVec 7) (a : BitVec 3) :
    Inv (raise e b a s) := by
  refine .of_sound (h.raise e b a) (.inl ⟨rfl, ?_⟩)
  by_cases he : e = .transportFatal
  · exact .inr (by simp [he])
  · exact .inl (by simp [he, hf])

/-- A normal end of a running operation. -/
theorem inv_complete (h : Sound s) (hf : s.status.fatal = false) (ok : Bool) : Inv (complete ok s) :=
  .of_sound (h.complete ok) (.inl ⟨rfl, .inl ⟨rfl, hf⟩⟩)

/-- The operation goes on in a state of its own whose facts hold. -/
theorem inv_goes_on {t : State} (hw : Working s) (h : Sound t) (hst : t.status = s.status) (hl : t.latch = s.latch)
    (he : t.err = s.err) (ho : belongsTo t.seq s.latch.op = true) (hg : StageOk t.seq t) : Inv t :=
  .of_sound h (.inr ⟨hst ▸ hw.busy, hst ▸ hw.done, hst ▸ hw.fatal, he ▸ hw.err, hl ▸ ho, hg⟩)

theorem inv_emit {c : Byte} {args : List Byte} {next fail : State → State} (hn : Inv (next (emitted c args s)))
    (hf : Inv (fail (emitted c args s))) : Inv (emit c args next fail s) := by
  rcases emit_cases c args next fail s with ⟨-, h⟩ | ⟨-, h⟩ <;> rw [h] <;> assumption

theorem inv_linkFatal (h : Sound s) (hf : s.status.fatal = false) (c : Byte) (args : List Byte) :
    Inv (linkFatal (emitted c args s)) :=
  inv_raise (h.emitted c args) (by simp [hf]) _ _ _

theorem inv_baudFatal (h : Sound s) (hf : s.status.fatal = false) : Inv (baudFatal s) :=
  inv_raise (s := { s with lineRate := none }) ⟨h.sticky, h.counts, h.buffers, h.raw, h.img⟩ hf _ _ _

theorem inv_blockFatal (h : Sound s) (hf : s.status.fatal = false) (hb : s.blk < 75#7) (c : Byte) (args : List Byte) :
    Inv (blockFatal (emitted c args s)) :=
  inv_raise ((h.emitted c args).loseBlock (by simpa using hb)) (by simp [hf]) _ _ _

end

end Sys2Proof.Machine
end

section
/-! PROOFS. Every transition of the sequencer keeps the invariant, operation by operation. -/

namespace Sys2Proof.Machine

section
variable {s : State}

-- Short operations

theorem inv_ckRun (h : Sound s) (hf : s.status.fatal = false) : Inv (ckRun s) := by
  rw [ckRun]
  split
  · exact inv_raise h hf _ _ _
  · rw [cksAbsorbAll_eq]
    exact .of_sound ⟨h.sticky, h.counts, h.buffers, h.raw, h.img⟩ (.inl ⟨rfl, .inl ⟨rfl, hf⟩⟩)

theorem inv_deRun (h : Sound s) (hf : s.status.fatal = false) : Inv (deRun s) := inv_complete (h.decodeRaw _) hf true

theorem inv_riDec (h : Sound s) (hf : s.status.fatal = false) : Inv (riDec s) := inv_complete (h.decodeRaw _) hf true

theorem inv_sdTx (h : Sound s) (hw : Working s) (ho : s.latch.op = 0x02#8) : Inv (sdTx s) := by
  rw [sdTx]
  split
  · exact inv_raise h hw.fatal _ _ _
  · rename_i hlen
    split
    · exact inv_raise h hw.fatal _ _ _
    · refine inv_emit ?_ (inv_linkFatal h hw.fatal _ _)
      split
      · exact inv_complete (h.emitted _ _) (by simp [hw.fatal]) true
      · refine inv_goes_on hw ((h.emitted _ _).goto _) (by simp) (by simp) (by simp) (by simp [ho, belongsTo]) ?_
        simp only [goto_seq, StageOk, goto_latch, emitted_latch]
        omega

/-- SEND reads at most 16 bytes (41_dispatcher R114). -/
theorem inv_sdRx (h : Sound s) (hw : Working s) (hq : s.seq = .sdRx) : Inv (sdRx s) := by
  have hm : s.latch.resplen.toNat ≤ Config.rxBufBytes := by
    have := hw.stage
    rw [hq] at this
    exact this.2
  rw [sdRx]
  split
  · exact inv_complete (h.receive hm) hw.fatal true
  · exact inv_raise (h.receive hm) hw.fatal _ _ _

theorem inv_dcTx (h : Sound s) (hw : Working s) (c : Byte) (args : List Byte) :
    Inv (dcTx c args (replyLength s.latch.op) s) := by
  refine inv_emit ?_ (inv_linkFatal h hw.fatal _ _)
  split
  · exact inv_complete (h.emitted _ _) (by simp [hw.fatal]) true
  · rename_i hm
    have reply : s.latch.op = 0x10#8 ∨ s.latch.op = 0x15#8 := by
      by_contra hn
      exact hm (if_neg hn)
    exact inv_goes_on hw ((h.emitted _ _).goto _) (by simp) (by simp) (by simp) (by simpa [belongsTo] using reply)
      trivial

theorem inv_pingRx (h : Sound s) (hf : s.status.fatal = false) : Inv (pingRx s) := by
  rw [pingRx]
  split
  · exact inv_raise (h.receive (by decide)) hf _ _ _
  · exact inv_complete (h.receive (by decide)) hf _

theorem inv_fwRx (h : Sound s) (hf : s.status.fatal = false) : Inv (fwRx s) := by
  have hr := h.receive (n := 2) (by decide)
  rw [fwRx]
  split
  · exact inv_raise hr hf _ _ _
  · exact inv_complete (s := setFw _ _ (receive 2 s)) ⟨hr.sticky, hr.counts, hr.buffers, hr.raw, hr.img⟩ hf _

-- SETBAUD (42_baud)

/-- SETBAUD goes on to one of its later states, the rate being one of the seven. -/
theorem inv_setbaud_goes_on {t : State} (hw : Working s) (ho : s.latch.op = 0x03#8) (h : Sound t)
    (hst : t.status = s.status) (hl : t.latch = s.latch) (he : t.err = s.err) (hq : afterCheck t.seq = true)
    (hr : (rateOf s.latch.rate).isSome = true) : Inv t :=
  inv_goes_on hw h hst hl he (ho ▸ belongsTo_afterCheck hq) ((stageOk_afterCheck hq t).2 (hl ▸ hr))

theorem inv_bnCheck (h : Sound s) (hw : Working s) (ho : s.latch.op = 0x03#8) : Inv (bnCheck s) := by
  rw [bnCheck]
  split
  · exact inv_raise h hw.fatal _ _ _
  · rename_i hr
    exact inv_setbaud_goes_on hw ho ⟨h.sticky, h.counts, h.buffers, h.raw, h.img⟩ rfl rfl rfl rfl (by rw [hr]; rfl)

theorem Working.rate (hw : Working s) (hq : afterCheck s.seq = true) : (rateOf s.latch.rate).isSome = true :=
  (stageOk_afterCheck hq s).1 hw.stage

/-- A frame of SETBAUD after which it goes on to `q`. -/
theorem inv_setbaud_emit (h : Sound s) (hw : Working s) (ho : s.latch.op = 0x03#8) (hq : afterCheck s.seq = true)
    {q : Seq} (hn : afterCheck q = true) (c : Byte) (args : List Byte) : Inv (emit c args (goto q) baudFatal s) :=
  inv_emit
    (inv_setbaud_goes_on hw ho ((h.emitted _ _).goto q) (by simp) (by simp) (by simp) hn (hw.rate hq))
    (inv_baudFatal (h.emitted _ _) (by simp [hw.fatal]))

theorem inv_bnConf (h : Sound s) (hw : Working s) : Inv (bnConf s) :=
  inv_emit (inv_complete (h.emitted _ _) (by simp [hw.fatal]) true) (inv_baudFatal (h.emitted _ _) (by simp [hw.fatal]))

theorem inv_bnRate (h : Sound s) (hw : Working s) (ho : s.latch.op = 0x03#8) (hq : afterCheck s.seq = true) (r : Rate) :
    Inv (bnRate r s) := by
  have hs := h.afterSetBaud r
  rw [bnRate]
  split
  · exact inv_setbaud_goes_on hw ho ⟨hs.sticky, hs.counts, hs.buffers, hs.raw, hs.img⟩ rfl rfl rfl rfl (hw.rate hq)
  · exact inv_baudFatal hs hw.fatal

theorem inv_bnAck (h : Sound s) (hw : Working s) (ho : s.latch.op = 0x03#8) (hq : afterCheck s.seq = true) :
    Inv (bnAck s) :=
  inv_setbaud_goes_on hw ho ((h.afterRead 2).goto _) rfl rfl rfl rfl (hw.rate hq)

theorem inv_bnReply (h : Sound s) (hw : Working s) (ho : s.latch.op = 0x03#8) (hq : afterCheck s.seq = true) :
    Inv (bnReply s) := by
  have hr := h.receive (n := 7) (by decide)
  have hrate := hw.rate hq
  rw [bnReply]
  split
  · exact inv_setbaud_goes_on hw ho (hr.goto _) rfl rfl rfl rfl hrate
  · split
    · exact inv_setbaud_goes_on hw ho ((hr.logError _ _ _).goto _) rfl rfl rfl rfl hrate
    · exact inv_setbaud_goes_on hw ho (hr.goto _) rfl rfl rfl rfl hrate

theorem inv_bnRoll (h : Sound s) (hf : s.status.fatal = false) : Inv (bnRoll s) := by
  have hs := h.afterSetBaud s.baudPrev
  rw [bnRoll]
  split
  · refine inv_raise (s := { afterSetBaud s.baudPrev s with baudCur := s.baudPrev }) ?_ hf _ _ _
    exact ⟨hs.sticky, hs.counts, hs.buffers, hs.raw, hs.img⟩
  · exact inv_baudFatal hs hf

-- STARTEXP (43_exposure)

theorem inv_exTx (h : Sound s) (hw : Working s) (ho : s.latch.op = 0x04#8) : Inv (exTx s) := by
  have hs : Sound { s with polls := 0#32 } := ⟨h.sticky, h.counts, h.buffers, h.raw, h.img⟩
  refine inv_emit ?_ (inv_linkFatal hs hw.fatal _ _)
  refine inv_goes_on hw ((hs.emitted _ _).goto _) (by simp) (by simp) (by simp) (by simp [ho, belongsTo]) ?_
  simp [StageOk, BitVec.le_def]

/-- A poll below the bound leaves `POLLS` at most at the bound (43_exposure R133, R135). -/
theorem inv_exWait (h : Sound s) (hw : Working s) (ho : s.latch.op = 0x04#8) : Inv (exWait s) := by
  rw [exWait]
  split
  · exact inv_raise h hw.fatal _ _ _
  · split
    · exact inv_raise h hw.fatal _ _ _
    · rename_i hpolls
      have hs : Sound (afterRead 1 { s with polls := s.polls + 1#32 }) :=
        ⟨h.sticky, h.counts, h.buffers, h.raw, h.img⟩
      dsimp only
      split
      · exact inv_complete hs hw.fatal true
      · refine inv_goes_on hw (hs.goto _) rfl rfl rfl (by simp [ho, belongsTo]) ?_
        show s.polls + 1#32 ≤ s.latch.readyMax
        bv_omega

-- READIMG (44_transfer)

theorem inv_riX (h : Sound s) (hw : Working s) (ho : s.latch.op = 0x05#8) : Inv (riX s) := by
  obtain ⟨att_le, blk_le, nblk_le, -⟩ := h.counts
  have hs : Sound { s with substCnt := 0#7, substMap := 0#75 } :=
    ⟨h.sticky, ⟨att_le, blk_le, nblk_le, by simp⟩, h.buffers, h.raw, h.img⟩
  refine inv_emit ?_ (inv_linkFatal hs hw.fatal _ _)
  refine inv_goes_on hw ((hs.emitted _ _).goto _) (by simp) (by simp) (by simp) (by simp [ho, belongsTo]) ?_
  simp [StageOk]

theorem inv_riSync (h : Sound s) (hw : Working s) (ho : s.latch.op = 0x05#8) (hq : s.seq = .riSync) :
    Inv (riSync s) := by
  have zero : s.substCnt = 0#7 := by
    have := hw.stage
    rw [hq] at this
    exact this
  rw [riSync]
  split
  · exact inv_raise (h.afterRead 1) hw.fatal _ _ _
  · refine inv_goes_on hw ⟨h.sticky, ⟨?_, ?_, ?_, h.counts.2.2.2⟩, h.buffers, h.raw, h.img⟩ rfl rfl rfl
      (by simp [ho, belongsTo]) ⟨rfl, ?_, ?_, ?_⟩
    · exact Nat.zero_le _
    · exact Nat.zero_le _
    · show blockCount s.latch.crop ≤ 75#7
      cases s.latch.crop <;> decide
    · show 0#7 < blockCount s.latch.crop
      cases s.latch.crop <;> decide
    · show s.substCnt ≤ 0#7
      rw [zero]; decide
    · show Ranges.noneBelow s.rawUnwritten 0 = true
      simp [Ranges.noneBelow_iff]

/-- A block in progress is one of the 75. -/
theorem BlockOk.blk_lt (hb : BlockOk s) (h : Sound s) : s.blk < 75#7 := by
  have := hb.2.1
  have := h.counts.2.2.1
  bv_omega

theorem inv_riEpi (h : Sound s) (hw : Working s) (ho : s.latch.op = 0x05#8) (hq : s.seq = .riEpi) : Inv (riEpi s) := by
  have stage := hw.stage
  rw [hq] at stage
  rw [riEpi]
  split
  · exact inv_raise (h.afterRead 5) hw.fatal _ _ _
  · exact inv_goes_on hw ((h.afterRead 5).goto _) rfl rfl rfl (by simp [ho, belongsTo]) stage.2

/-- A block in progress whose read is stored goes on to `q`. -/
theorem inv_blockStored {t : State} {q : Seq} (hw : Working s) (ho : s.latch.op = 0x05#8) (h : Sound t)
    (hst : t.status = s.status) (hl : t.latch = s.latch) (he : t.err = s.err) (hq : inBlock q = true)
    (stage : StageOk q t) : Inv (goto q t) := by
  refine inv_goes_on hw (h.goto q) hst hl he ?_ ?_
  · cases q <;> simp_all [belongsTo, inBlock]
  · cases q <;> exact stage

theorem inv_riBlk (h : Sound s) (hw : Working s) (ho : s.latch.op = 0x05#8) (block : BlockOk s) : Inv (riBlk s) := by
  have hlt := block.blk_lt h
  have hs : Sound (afterRead 8193 { s with lrcAcc := 0#8 }) := ⟨h.sticky, h.counts, h.buffers, h.raw, h.img⟩
  obtain ⟨hn, hb, hc, written⟩ := block
  have stored : BlockOk (blockStored s) := by
    simpa [BlockOk, hn, hc] using ⟨hn ▸ hb, Ranges.noneBelow_of_remove written _ _⟩
  rcases riBlk_cases s with ⟨-, -, hx⟩ | ⟨-, -, hx⟩ | ⟨-, -, hx⟩ | ⟨-, hr, hx⟩ | ⟨-, hr, ha, hx⟩ | ⟨-, hr, ha, hx⟩ <;>
    rw [hx]
  · exact inv_raise h hw.fatal _ _ _
  · exact inv_raise (h.loseBlock hlt) hw.fatal _ _ _
  · exact inv_raise (hs.loseBlock hlt) hw.fatal _ _ _
  · refine inv_blockStored hw ho (h.blockStored hr.1 hlt) (by simp) (by simp) (by simp) rfl ⟨stored, ?_⟩
    rw [blockStored_rawUnwritten, blockBase, (blockStored_keeps s).2.1]
    exact Ranges.noneBelow_remove written blockBytes
  · refine inv_blockStored hw ho ((h.blockStored hr.1 hlt).logError _ _ _) (by simp) (by simp) (by simp) rfl ⟨stored, ?_⟩
    simpa [retryMax] using ha
  · refine inv_blockStored hw ho ((h.blockStored hr.1 hlt).logError _ _ _) (by simp) (by simp) (by simp) rfl ⟨stored, ?_⟩
    have := h.counts.1
    simp only [retryMax] at ha
    simp only [logError_att, blockStored_keeps]
    bv_omega

/-- The next block, or the epilogue after the last (44_transfer R148): the present block is written. -/
theorem inv_nextBlock {t : State} (hw : Working s) (ho : s.latch.op = 0x05#8) (h : Sound t) (hst : t.status = s.status)
    (hl : t.latch = s.latch) (he : t.err = s.err) (hn : t.nblk = blockCount t.latch.crop) (hb : t.blk < t.nblk)
    (hc : t.substCnt ≤ t.blk + 1#7)
    (hu : Ranges.noneBelow t.rawUnwritten (blockBytes * t.blk.toNat + blockBytes) = true) : Inv (nextBlock t) := by
  obtain ⟨-, -, nblk_le, subst_le⟩ := h.counts
  have next : (t.blk + 1#7).toNat = t.blk.toNat + 1 := by bv_omega
  have hs : Sound (nextBlock t) :=
    ⟨h.sticky, ⟨Nat.zero_le _, by show t.blk + 1#7 ≤ t.nblk; bv_omega, nblk_le, subst_le⟩, h.buffers, h.raw, h.img⟩
  have written : Ranges.noneBelow t.rawUnwritten (blockBytes * (t.blk + 1#7).toNat) = true := by
    rw [next, Nat.mul_succ]
    exact hu
  by_cases hend : t.blk + 1#7 = t.nblk
  · have hq : (nextBlock t).seq = .riEpi := if_pos hend
    refine inv_goes_on hw hs hst hl he (by rw [hq, ho]; rfl) (hq ▸ ⟨hend, ?_⟩)
    have stream : streamBytes t.latch.crop = blockBytes * (t.blk + 1#7).toNat := by
      rw [hend, hn]
      cases t.latch.crop <;> rfl
    show Ranges.noneBelow t.rawUnwritten (streamBytes t.latch.crop) = true
    rw [stream]
    exact written
  · have hq : (nextBlock t).seq = .riBlk := if_neg hend
    refine inv_goes_on hw hs hst hl he (by rw [hq, ho]; rfl) (hq ▸ ⟨hn, ?_, hc, written⟩)
    show t.blk + 1#7 < t.nblk
    bv_omega

theorem inv_riAck (h : Sound s) (hw : Working s) (ho : s.latch.op = 0x05#8) (hq : s.seq = .riAck) : Inv (riAck s) := by
  have stage := hw.stage
  rw [hq] at stage
  obtain ⟨block, accepted⟩ := stage
  refine inv_emit ?_ (inv_blockFatal h hw.fatal (block.blk_lt h) _ _)
  obtain ⟨hn, hb, hc, -⟩ := block
  refine inv_nextBlock hw ho (h.emitted _ _) (by simp) (by simp) (by simp) (by simpa using hn) (by simpa using hb) ?_
    (by simpa using accepted)
  have := h.counts.2.2.1
  simp only [emitted_substCnt, emitted_blk]
  bv_omega

theorem inv_riRetry (h : Sound s) (hw : Working s) (ho : s.latch.op = 0x05#8) (hq : s.seq = .riRetry) :
    Inv (riRetry s) := by
  have stage := hw.stage
  rw [hq] at stage
  obtain ⟨block, hatt⟩ := stage
  have he := h.emitted 0x52#8 []
  refine inv_emit ?_ (inv_blockFatal h hw.fatal (block.blk_lt h) _ _)
  refine inv_goes_on hw ⟨he.sticky, ⟨?_, he.counts.2⟩, he.buffers, he.raw, he.img⟩ (by simp) (by simp) (by simp)
    (by simp [ho, belongsTo]) ?_
  · show (emitted _ _ s).att + 1#3 ≤ 5#3
    rw [emitted_att]
    bv_omega
  · simpa [StageOk, BlockOk] using block

theorem inv_riAbort (h : Sound s) (hw : Working s) (ho : s.latch.op = 0x05#8) (hq : s.seq = .riAbort) :
    Inv (riAbort s) := by
  have stage := hw.stage
  rw [hq] at stage
  obtain ⟨block, -⟩ := stage
  have hlt := block.blk_lt h
  obtain ⟨hn, hb, hc, hu⟩ := block
  refine inv_emit ?_ (inv_blockFatal h hw.fatal hlt _ _)
  have he := ((h.emitted 0x53#8 []).logError .blockTransferAborted (emitted 0x53#8 [] s).blk
    (emitted 0x53#8 [] s).att).storeBlock (bytes := List.replicate blockBytes 0#8) List.length_replicate
    (by simpa using hlt)
  obtain ⟨att_le, blk_le, nblk_le, -⟩ := h.counts
  have count : s.substCnt + 1#7 ≤ s.blk + 1#7 ∧ s.substCnt + 1#7 ≤ 75#7 := by bv_omega
  refine inv_nextBlock hw ho ⟨he.sticky, ⟨?_, ?_, ?_, ?_⟩, he.buffers, he.raw, he.img⟩ (by simp) (by simp) (by simp)
    ?_ ?_ ?_ ?_
  · simpa using att_le
  · simpa using blk_le
  · simpa using nblk_le
  · simpa using count.2
  · simpa using hn
  · simpa using hb
  · simpa using count.1
  · simpa [blockBase] using Ranges.noneBelow_remove hu blockBytes

end

/-- Every transition of the sequencer keeps the invariant. -/
theorem inv_transition {s t : State} (hI : Inv s) (h : Transition s t) : Inv t := by
  have hs := hI.sound
  have hw : Working s := hI.resting_or_working.resolve_left fun hn => Bool.false_ne_true (hn.1.symm.trans h.busy.1)
  cases h with
  | ckRun hr => exact inv_ckRun hs hw.fatal
  | sdTx hr => exact inv_sdTx hs hw hr.2.2.1
  | sdRx hr => exact inv_sdRx hs hw hr.2.2.2
  | bnCheck hr => exact inv_bnCheck hs hw hr.2.2.1
  | bnCmd r hr => exact inv_setbaud_emit hs hw hr.2.2.1 (hr.2.2.2 ▸ rfl) rfl _ _
  | bnRate r hr => exact inv_bnRate hs hw hr.2.2.1 (hr.2.2.2 ▸ rfl) r
  | bnAck hr => exact inv_bnAck hs hw hr.2.2.1 (hr.2.2.2 ▸ rfl)
  | bnTest hr => exact inv_setbaud_emit hs hw hr.2.2.1 (hr.2.2.2 ▸ rfl) rfl _ _
  | bnReply hr => exact inv_bnReply hs hw hr.2.2.1 (hr.2.2.2 ▸ rfl)
  | bnConf hr => exact inv_bnConf hs hw
  | bnRoll hr => exact inv_bnRoll hs hw.fatal
  | exTx hr => exact inv_exTx hs hw hr.2.2.1
  | exWait hr => exact inv_exWait hs hw hr.2.2.1
  | riX hr => exact inv_riX hs hw hr.2.2.1
  | riSync hr => exact inv_riSync hs hw hr.2.2.1 hr.2.2.2
  | riBlk hr => exact inv_riBlk hs hw hr.2.2.1 (hw.stage.block (hr.2.2.2 ▸ rfl))
  | riAck hr => exact inv_riAck hs hw hr.2.2.1 hr.2.2.2
  | riRetry hr => exact inv_riRetry hs hw hr.2.2.1 hr.2.2.2
  | riAbort hr => exact inv_riAbort hs hw hr.2.2.1 hr.2.2.2
  | riEpi hr => exact inv_riEpi hs hw hr.2.2.1 hr.2.2.2
  | riDec hr => exact inv_riDec hs hw.fatal
  | deRun hr => exact inv_deRun hs hw.fatal
  | dcTx p hr => exact inv_dcTx hs hw _ _
  | pingRx hr => exact inv_pingRx hs hw.fatal
  | fwRx hr => exact inv_fwRx hs hw.fatal

end Sys2Proof.Machine
end

section
/-! PROOFS. Every step keeps the invariant and the record of substituted blocks; the state after reset has both. -/

namespace Sys2Proof.Machine

-- The host's side

/-- A step that leaves the sequencer, its flags and its latches alone, and no fact of its stage behind. -/
theorem Inv.of_same {s t : State} (h : Inv s) (hs : Sound t) (hst : t.status = s.status) (hq : t.seq = s.seq)
    (he : t.err = s.err) (hl : t.latch = s.latch) (hg : StageOk s.seq s → StageOk s.seq t) : Inv t := by
  refine .of_sound hs (h.resting_or_working.imp (fun hr => ?_) (fun hw => ?_))
  · rw [Resting, hst, hq]
    exact hr
  · exact ⟨hst ▸ hw.busy, hst ▸ hw.done, hst ▸ hw.fatal, he ▸ hw.err, hq ▸ hl ▸ hw.seq_op, hq ▸ hg hw.stage⟩

/-- A host's write to a memory comes only while no operation runs (20_memory R41). -/
theorem Inv.of_memory_write {s t : State} (h : Inv s) (hb : s.status.busy = false) (hs : Sound t)
    (hst : t.status = s.status) (hq : t.seq = s.seq) : Inv t := by
  refine .of_sound hs (.inl ?_)
  rw [Resting, hst, hq]
  exact h.resting_or_working.resolve_right fun hw => Bool.false_ne_true (hb.symm.trans hw.busy)

theorem Inv.popHost {s : State} (h : Inv s) : Inv (popHost s) :=
  h.of_same h.sound.popHost rfl rfl rfl rfl (fun g => g)

theorem inv_access {s t : State} (h : Inv s) (ha : HostAccess s t) : Inv t := by
  have hs := h.sound
  obtain ⟨tx_size, rx_size, rx_len⟩ := hs.buffers
  cases ha with
  | nothing => exact h
  | overrun =>
    exact h.of_same ⟨stickySet_mask _ hs.sticky, hs.counts, hs.buffers, hs.raw, hs.img⟩ rfl rfl rfl rfl (fun g => g)
  | txbuf k v =>
    exact h.of_same ⟨hs.sticky, hs.counts, ⟨(List.length_set ..).trans tx_size, rx_size, rx_len⟩, hs.raw, hs.img⟩
      rfl rfl rfl rfl (fun g => g)
  | raw a v hb ha =>
    have hraw := hs.raw.put (a := a) (bytes := [v]) Nat.one_pos ha
    exact h.of_memory_write hb ⟨hs.sticky, hs.counts, hs.buffers, hraw, hs.img⟩ rfl rfl
  | img a v hb ha =>
    have himg : ImgOk (Memory.put s.img a [v]) := ⟨Memory.put_wf hs.img.1 _ _, Memory.put_within hs.img.2 ha⟩
    exact h.of_memory_write hb ⟨hs.sticky, hs.counts, hs.buffers, hs.raw, himg⟩ rfl rfl
  | _ => exact h.of_same ⟨hs.sticky, hs.counts, hs.buffers, hs.raw, hs.img⟩ rfl rfl rfl rfl (fun g => g)

/-- The first state of an operation belongs to it, is in no block, and its facts hold if the operands are written
(10_state R14, R35). -/
theorem first_state {op : Byte} {i : Instr} {q : Seq} (h : (op, i, q) ∈ hostOps) :
    belongsTo q op = true ∧ q ≠ .riSync ∧ inBlock q = false ∧
      ∀ s : State, operandsWritten op s = true → StageOk q (start op q s) := by
  have table : ∀ x ∈ hostOps, belongsTo x.2.2 x.1 = true ∧
      (x.2.2 ∈ [.ckRun, .sdTx, .bnCheck, .exTx, .riX, .dcTx] ∨ x.1 = 0x06#8 ∧ x.2.2 = .deRun) := by decide
  obtain ⟨ho, hq⟩ := table _ h
  simp only [List.mem_cons, List.not_mem_nil, or_false] at hq
  rcases hq with (rfl | rfl | rfl | rfl | rfl | rfl) | ⟨rfl, rfl⟩
  case inr =>
    refine ⟨rfl, by decide, rfl, fun s hw => ?_⟩
    exact (Bool.and_eq_true _ _ ▸ hw : _ ∧ _).2
  all_goals exact ⟨ho, by decide, rfl, fun _ _ => trivial⟩

theorem inv_start {s : State} (h : Inv s) (hi : Idle s) {op : Byte} {i : Instr} {q : Seq} (hm : (op, i, q) ∈ hostOps)
    (hw : operandsWritten op s = true) : Inv (start op q s) := by
  obtain ⟨ho, -, -, hg⟩ := first_state hm
  exact .of_sound (h.sound.start op q) (.inr ⟨rfl, rfl, hi.2, rfl, ho, hg s hw⟩)

theorem inv_startReserved {s : State} (h : Inv s) (hi : Idle s) (op : Byte) : Inv (startReserved op s) :=
  inv_raise (h.sound.start op s.seq) hi.2 _ _ _

theorem sound_reset : Sound State.reset where
  sticky := rfl
  counts := by rw [CountsOk]; decide
  buffers := ⟨rfl, rfl, Nat.zero_le _⟩
  raw :=
    { wf := rfl
      within := rfl
      unwritten_wf := rfl
      unwritten_in := by decide
      disjoint := by simp [State.reset] }
  img := ⟨rfl, rfl⟩

theorem inv_reset : Inv State.reset := .of_sound sound_reset (.inl ⟨rfl, .inl ⟨rfl, rfl⟩⟩)

theorem inv_resetNow (s : State) : Inv (resetNow s) := by
  have h := sound_reset
  exact .of_sound ⟨h.sticky, h.counts, h.buffers, h.raw, h.img⟩ (.inl ⟨rfl, .inl ⟨rfl, rfl⟩⟩)

/-- Every step keeps the invariant. -/
theorem inv_step {s t : State} (hI : Inv s) (h : step s = .next t) : Inv t := by
  rcases step_kinds h with ⟨-, rfl⟩ | ha | ⟨hi, op, i, q, hm, hw, rfl⟩ | ⟨hi, op, rfl⟩ | ⟨-, ht⟩
  · exact inv_resetNow _
  · exact inv_access hI.popHost ha
  · exact inv_start hI.popHost hi hm hw
  · exact inv_startReserved hI.popHost hi op
  · exact inv_transition hI.popHost ht

-- The record of substituted blocks

theorem markedBlocks_zero : markedBlocks 0#75 = 0 := by simp [markedBlocks]

/-- A list without repetitions has one more element with `p` or equal to `b` than with `p`, if `b` is a new one. -/
theorem length_filter_or_eq {p : Nat → Bool} {b : Nat} (hp : p b = false) {l : List Nat} (hl : l.Nodup) (hb : b ∈ l) :
    (l.filter (fun k => decide (k = b) || p k)).length = (l.filter p).length + 1 := by
  induction l with
  | nil => cases hb
  | cons a l ih =>
    obtain ⟨ha, hl⟩ := List.nodup_cons.mp hl
    by_cases hab : a = b
    · subst hab
      have rest : l.filter (fun k => decide (k = a) || p k) = l.filter p :=
        List.filter_congr fun k hk => by simp [show k ≠ a by rintro rfl; exact ha hk]
      simp [hp, rest]
    · have := ih hl ((List.mem_cons.mp hb).resolve_left (Ne.symm hab))
      cases hpa : p a <;> simp [hab, hpa, this]

/-- A block that was not marked adds one to the number of marked blocks. -/
theorem markedBlocks_substSet {b : BitVec 7} {m : BitVec 75} (hb : b.toNat < 75) (hm : m.getLsbD b.toNat = false) :
    markedBlocks (substSet b m) = markedBlocks m + 1 := by
  rw [markedBlocks, markedBlocks, ← length_filter_or_eq hm List.nodup_range (List.mem_range.mpr hb)]
  refine congrArg List.length (List.filter_congr fun k hk => ?_)
  rw [substSet, getLsbD_or_bit _ _ _ (List.mem_range.mp hk)]

/-- Outside the states that read blocks only the count matters. -/
theorem SubstInv.of_outside {s t : State} (h : SubstInv s) (hc : t.substCnt = s.substCnt) (hm : t.substMap = s.substMap)
    (hq : t.seq ≠ .riSync) (hb : inBlock t.seq = false) : SubstInv t :=
  ⟨by rw [hc, hm, h.counts], fun h' => absurd h' hq, fun h' => absurd h' (by simp [hb])⟩

/-- From a state that reads blocks, the count and the map staying as they are and the index not falling. -/
theorem SubstInv.of_block {s t : State} (h : SubstInv s) (hs : inBlock s.seq = true) (hc : t.substCnt = s.substCnt)
    (hm : t.substMap = s.substMap) (hq : t.seq ≠ .riSync) (hb : s.blk.toNat ≤ t.blk.toNat) : SubstInv t :=
  ⟨by rw [hc, hm, h.counts], fun h' => absurd h' hq, fun _ k hk => by rw [hm]; exact h.later_clear hs k (hb.trans hk)⟩

theorem SubstInv.popHost {s : State} (h : SubstInv s) : SubstInv (popHost s) := ⟨h.counts, h.sync_empty, h.later_clear⟩

theorem subst_access {s t : State} (h : SubstInv s) (ha : HostAccess s t) : SubstInv t := by
  cases ha <;> exact ⟨h.counts, h.sync_empty, h.later_clear⟩

theorem subst_emit {s : State} {c : Byte} {args : List Byte} {next fail : State → State}
    (hn : SubstInv (next (emitted c args s))) (hf : SubstInv (fail (emitted c args s))) :
    SubstInv (emit c args next fail s) := by
  rcases emit_cases c args next fail s with ⟨-, h⟩ | ⟨-, h⟩ <;> rw [h] <;> assumption

/-- READIMG clears the record at its start (44_transfer R141). -/
theorem subst_riX (s : State) : SubstInv (riX s) := by
  refine subst_emit ⟨?_, fun _ => by simp, fun h => by simp [inBlock] at h⟩
    ⟨?_, fun h => by simp at h, fun h => by simp [inBlock] at h⟩
  · simp [markedBlocks_zero]
  · simp [markedBlocks_zero]

theorem subst_riSync {s : State} (h : SubstInv s) (hq : s.seq = .riSync) : SubstInv (riSync s) := by
  rw [riSync]
  split
  · exact h.of_outside rfl rfl (by simp) (by simp [inBlock])
  · refine ⟨h.counts, fun h' => (by cases h'), fun _ k _ => ?_⟩
    show s.substMap.getLsbD k = false
    simp [h.sync_empty hq]

/-- A read attempt touches neither the record nor the index. -/
theorem riBlk_record (s : State) :
    (riBlk s).substCnt = s.substCnt ∧ (riBlk s).substMap = s.substMap ∧ (riBlk s).blk = s.blk ∧
      (riBlk s).seq ≠ .riSync := by
  rcases riBlk_cases s with ⟨-, -, h⟩ | ⟨-, -, h⟩ | ⟨-, -, h⟩ | ⟨-, -, h⟩ | ⟨-, -, -, h⟩ | ⟨-, -, -, h⟩ <;> rw [h]
  all_goals simp

/-- The index of the block after one that is in progress. -/
theorem next_index {s : State} (hI : Inv s) (hb : inBlock s.seq = true) : (s.blk + 1#7).toNat = s.blk.toNat + 1 := by
  have h1 := (hI.in_block hb).2.1
  have h2 := hI.nblk_le
  bv_omega

theorem nextBlock_seq_ne_riSync (s : State) : (nextBlock s).seq ≠ .riSync := by
  rw [nextBlock]
  dsimp only
  split <;> simp

theorem subst_riAck {s : State} (hI : Inv s) (h : SubstInv s) (hq : s.seq = .riAck) : SubstInv (riAck s) := by
  have hb : inBlock s.seq = true := hq ▸ rfl
  refine subst_emit (h.of_block hb (emitted_substCnt ..) (emitted_substMap ..) (nextBlock_seq_ne_riSync _) ?_)
    (h.of_block hb (by simp) (by simp) (by simp) (by simp))
  show s.blk.toNat ≤ ((emitted _ _ s).blk + 1#7).toNat
  rw [emitted_blk, next_index hI hb]
  exact Nat.le_succ _

theorem subst_riRetry {s : State} (h : SubstInv s) (hq : s.seq = .riRetry) : SubstInv (riRetry s) := by
  have hb : inBlock s.seq = true := hq ▸ rfl
  exact subst_emit (h.of_block hb (by simp) (by simp) (by simp) (by simp))
    (h.of_block hb (by simp) (by simp) (by simp) (by simp))

/-- The block that is given up is marked and counted, and the next one is not (44_transfer R147). -/
theorem subst_riAbort {s : State} (hI : Inv s) (h : SubstInv s) (hq : s.seq = .riAbort) : SubstInv (riAbort s) := by
  have hb : inBlock s.seq = true := hq ▸ rfl
  obtain ⟨-, hlt, hc⟩ := hI.in_block hb
  have nblk_le := hI.nblk_le
  have lt75 : s.blk.toNat < 75 := by bv_omega
  have clear := h.later_clear hb
  refine subst_emit ⟨?_, fun h' => absurd h' (nextBlock_seq_ne_riSync _), fun _ k hk => ?_⟩
    (h.of_block hb (by simp) (by simp) (by simp) (by simp))
  · show ((emitted _ _ s).substCnt + 1#7).toNat = markedBlocks (substSet (emitted _ _ s).blk (emitted _ _ s).substMap)
    rw [emitted_substCnt, emitted_blk, emitted_substMap, markedBlocks_substSet lt75 (clear _ le_rfl), ← h.counts]
    bv_omega
  · have hk' : s.blk.toNat + 1 ≤ k := by
      rw [← next_index hI hb]
      exact (congrArg (fun b : BitVec 7 => (b + 1#7).toNat) (emitted_blk 0x53#8 [] s)).symm.le.trans hk
    show (substSet (emitted _ _ s).blk (emitted _ _ s).substMap).getLsbD k = false
    rw [emitted_blk, emitted_substMap]
    by_cases hw : k < 75
    · rw [substSet, getLsbD_or_bit _ _ _ hw, clear k (by omega)]
      simp; omega
    · exact BitVec.getLsbD_of_ge _ _ (by omega)

/-- An operation that is not READIMG stands in no state that reads blocks. -/
theorem Inv.outside {s : State} (h : Inv s) (ho : s.latch.op ≠ 0x05#8) : s.seq ≠ .riSync ∧ inBlock s.seq = false := by
  rcases h.resting_or_working with ⟨-, ⟨hq, -⟩ | ⟨hq, -⟩⟩ | hw
  · rw [hq]; exact ⟨by simp, rfl⟩
  · rw [hq]; exact ⟨by simp, rfl⟩
  · have hs := hw.seq_op
    cases hq : s.seq <;> rw [hq] at hs
    case riSync | riBlk | riAck | riRetry | riAbort => exact absurd (eq_of_beq hs) ho
    all_goals exact ⟨by simp, rfl⟩

theorem subst_transition {s t : State} (hI : Inv s) (h : SubstInv s) (ht : Transition s t) : SubstInv t := by
  by_cases ho : s.latch.op = 0x05#8
  · have hbel := hI.seq_op ht.busy.1
    rw [ho] at hbel
    cases ht with
    | riX => exact subst_riX s
    | riSync hr => exact subst_riSync h hr.2.2.2
    | riBlk hr =>
      obtain ⟨hc, hm, hb, hq⟩ := riBlk_record s
      exact h.of_block (hr.2.2.2 ▸ rfl) hc hm hq (by rw [hb])
    | riAck hr => exact subst_riAck hI h hr.2.2.2
    | riRetry hr => exact subst_riRetry h hr.2.2.2
    | riAbort hr => exact subst_riAbort hI h hr.2.2.2
    | riEpi hr =>
      rw [riEpi]
      split
      · exact h.of_outside rfl rfl (by simp) (by simp [inBlock])
      · exact h.of_outside rfl rfl (by simp) rfl
    | riDec hr => exact h.of_outside rfl rfl (by simp [riDec]) rfl
    | _ => rw [(‹Running _ _ _›).2.2.2] at hbel; cases hbel
  · obtain ⟨c, hk, -⟩ := transition_moves ht
    obtain ⟨hc, hm⟩ := hk.subst ho
    obtain ⟨hq, hb⟩ := (inv_transition hI ht).outside (hk.latch ▸ ho)
    exact h.of_outside hc hm hq hb

/-- Every step keeps the record of substituted blocks. -/
theorem subst_step {s t : State} (hI : Inv s) (hS : SubstInv s) (h : step s = .next t) : SubstInv t := by
  rcases step_kinds h with ⟨-, rfl⟩ | ha | ⟨-, op, i, q, hm, -, rfl⟩ | ⟨-, op, rfl⟩ | ⟨-, ht⟩
  · exact ⟨markedBlocks_zero.symm, fun h => (by cases h), fun h => (by cases h)⟩
  · exact subst_access hS.popHost ha
  · obtain ⟨-, hq, hb, -⟩ := first_state hm
    exact hS.popHost.of_outside rfl rfl hq hb
  · exact hS.popHost.of_outside rfl rfl (by simp [startReserved]) (by simp [startReserved, inBlock])
  · exact subst_transition hI.popHost hS.popHost ht

end Sys2Proof.Machine

open Sys2Proof Sys2Proof.Machine

/-- Settles O48, by the kinds of a step and the transitions of the sequencer. -/
theorem stepKeepsTheInvariant : Obligations.StepKeepsTheInvariant := fun _ _ => inv_step

/-- Settles O50, by the kinds of a step; only READIMG touches the record. -/
theorem stepKeepsTheSubstitutionRecord : Obligations.StepKeepsTheSubstitutionRecord := fun _ _ => subst_step

/-- Settles O49. -/
theorem resetHasTheInvariants : Obligations.ResetHasTheInvariants :=
  ⟨inv_reset, markedBlocks_zero.symm, fun h => (by cases h), fun h => (by cases h)⟩
end

section
/-! PROOFS. The decoder by positions (45_decoder R160 to R163), and what `IMG` holds after a decode. -/

namespace Sys2Proof.Machine

/-- Sample `i` is made of the bytes `2 i` and `2 i + 1` (45_decoder R160, R161). -/
theorem getElem?_samples (order : PixOrder) (bytes : List Byte) (i : Nat) :
    (samples order bytes)[i]? = (bytes[2 * i]?).bind fun a => (bytes[2 * i + 1]?).map fun b => sample order a b := by
  induction bytes using samples.induct generalizing i with
  | case1 a b rest ih =>
    cases i with
    | zero => rfl
    | succ i => simpa [samples, Nat.mul_succ] using ih i
  | case2 l h =>
    have short : ∀ j, 1 ≤ j → l[j]? = none := by
      intro j hj
      match l, h with
      | [], _ => rfl
      | [_], _ => simp; omega
      | a :: b :: rest, h => exact (h a b rest rfl).elim
    have none_samples : samples order l = [] := by
      match l, h with
      | [], _ => rfl
      | [_], _ => rfl
      | a :: b :: rest, h => exact (h a b rest rfl).elim
    rw [none_samples, short (2 * i + 1) (by omega)]
    simp

theorem length_samples (order : PixOrder) (bytes : List Byte) : (samples order bytes).length = bytes.length / 2 := by
  induction bytes using samples.induct with
  | case1 a b rest ih => simp [samples, ih]; omega
  | case2 l h =>
    match l, h with
    | [], _ => rfl
    | [_], _ => simp [samples]
    | a :: b :: rest, h => exact (h a b rest rfl).elim

/-- Row `r` starts at element `r * cols` (45_decoder R163). -/
theorem rowsOf_eq {α : Type} (cols n : Nat) (l : List α) :
    rowsOf cols n l = (List.range n).map (fun r => (l.drop (r * cols)).take cols) := by
  induction n generalizing l with
  | zero => rfl
  | succ n ih =>
    rw [rowsOf, ih, List.range_succ_eq_map, List.map_cons, List.map_map]
    refine congrArg₂ List.cons (by simp) (List.map_congr_left fun r _ => ?_)
    simp [List.drop_drop, Nat.succ_mul, Nat.add_comm]

/-- Element `c` of list `r`, the lists having `cols` elements each. -/
theorem getElem?_flatten_uniform {α : Type} {cols : Nat} {ls : List (List α)} (h : ∀ l ∈ ls, l.length = cols) (r : Nat)
    {c : Nat} (hc : c < cols) : ls.flatten[r * cols + c]? = (ls[r]?).bind fun l => l[c]? := by
  induction ls generalizing r with
  | nil => simp
  | cons l ls ih =>
    have hl : l.length = cols := h l (by simp)
    have ih := ih (fun k hk => h k (List.mem_cons_of_mem _ hk))
    cases r with
    | zero => simp [List.getElem?_append_left, hl, hc]
    | succ r =>
      rw [List.flatten_cons, List.getElem?_append_right (by rw [hl, Nat.succ_mul]; omega), List.getElem?_cons_succ,
        ← ih r]
      congr 1
      rw [hl, Nat.succ_mul]
      omega

/-- The rows of a stream of the right length are full. -/
theorem length_of_mem_rowsOf (order : PixOrder) (cols : Nat) {bytes : List Byte}
    (hl : bytes.length = 2 * (imageRows * cols)) :
    ∀ l ∈ (rowsOf cols imageRows (samples order bytes)).reverse, l.length = cols := by
  intro l h
  rw [List.mem_reverse, rowsOf_eq, List.mem_map] at h
  obtain ⟨k, hk, rfl⟩ := h
  have : (k + 1) * cols ≤ imageRows * cols := Nat.mul_le_mul_right _ (List.mem_range.mp hk)
  rw [Nat.succ_mul] at this
  rw [List.length_take, List.length_drop, length_samples, hl]
  omega

/-- Pixel `(r, c)` of the image of a stream of the right length: the rows are in reverse order (45_decoder R163). -/
theorem getElem?_decodeImage (order : PixOrder) (cols : Nat) {bytes : List Byte}
    (hl : bytes.length = 2 * (imageRows * cols)) {r c : Nat} (hr : r < imageRows) (hc : c < cols) :
    (decodeImage order cols bytes)[r * cols + c]? = (samples order bytes)[(imageRows - 1 - r) * cols + c]? := by
  have count : (rowsOf cols imageRows (samples order bytes)).length = imageRows := by simp [rowsOf_eq]
  rw [decodeImage, getElem?_flatten_uniform (length_of_mem_rowsOf order cols hl) r hc,
    List.getElem?_reverse (by rw [count]; exact hr), count, rowsOf_eq]
  simp [show imageRows - 1 - r < imageRows by omega, hc, List.getElem?_drop]

theorem length_decodeImage (order : PixOrder) (cols : Nat) {bytes : List Byte}
    (hl : bytes.length = 2 * (imageRows * cols)) : (decodeImage order cols bytes).length = imageRows * cols := by
  have lengths : (rowsOf cols imageRows (samples order bytes)).reverse.map List.length =
      List.replicate imageRows cols :=
    List.eq_replicate_iff.mpr ⟨by simp [rowsOf_eq], List.forall_mem_map.mpr (length_of_mem_rowsOf order cols hl)⟩
  rw [decodeImage, List.length_flatten, lengths, List.sum_replicate, smul_eq_mul]

theorem getElem?_rawStream {s : State} (hw : Memory.wf s.raw = true) (crop : Bool) {i : Nat}
    (hi : i < streamBytes crop) :
    (rawStream crop s)[i]? = some (rawByte i s) := by
  rw [rawStream, Memory.read_eq _ hw]
  simp [hi, rawByte]

/-- A word of `IMG` after a decode, by the two bytes of `RAW` it is made of. -/
theorem imgWord_decodeRaw {s : State} (hw : Memory.wf s.raw = true) (crop : Bool) {r c : Nat} (hr : r < 480)
    (hc : c < imageCols crop) :
    imgWord (r * imageCols crop + c) (decodeRaw crop s) = sample Config.pixOrder
      (rawByte (2 * ((479 - r) * imageCols crop + c)) s) (rawByte (2 * ((479 - r) * imageCols crop + c) + 1) s) := by
  have hl : (rawStream crop s).length = 2 * (imageRows * imageCols crop) := by rw [rawStream, Memory.read_length]; rfl
  have inside : ∀ k, k < 480 → k * imageCols crop + c < 480 * imageCols crop := by
    intro k hk
    have : (k + 1) * imageCols crop ≤ 480 * imageCols crop := Nat.mul_le_mul_right _ hk
    rw [Nat.succ_mul] at this
    omega
  have pixel : (decodeImage Config.pixOrder (imageCols crop) (rawStream crop s))[r * imageCols crop + c]? =
      (samples Config.pixOrder (rawStream crop s))[(479 - r) * imageCols crop + c]? :=
    getElem?_decodeImage Config.pixOrder (imageCols crop) hl hr hc
  have h1 := inside (479 - r) (by omega)
  rw [getElem?_samples, getElem?_rawStream hw crop (by simp only [streamBytes, imageRows] at h1 ⊢; omega),
    getElem?_rawStream hw crop (by simp only [streamBytes, imageRows] at h1 ⊢; omega)] at pixel
  rw [imgWord, decodeRaw_img, Memory.lookup_put, length_decodeImage _ _ hl, Nat.sub_zero, pixel,
    if_pos ⟨Nat.zero_le _, by rw [Nat.zero_add]; exact inside r hr⟩]
  rfl

/-- A decode leaves the words beyond the image alone (45_decoder R163). -/
theorem imgWord_decodeRaw_beyond (crop : Bool) (s : State) {a : Nat} (ha : 480 * imageCols crop ≤ a) :
    imgWord a (decodeRaw crop s) = imgWord a s := by
  have hl : (rawStream crop s).length = 2 * (imageRows * imageCols crop) := by rw [rawStream, Memory.read_length]; rfl
  rw [imgWord, decodeRaw_img, Memory.lookup_put, length_decodeImage _ _ hl, if_neg (by simp only [imageRows]; omega)]
  rfl

end Sys2Proof.Machine
end

section
/-! PROOFS. A whole transfer without a mismatch (44_transfer R140 to R154): the states between two blocks, the two steps
of one block, and the run over all of them. -/

namespace Sys2Proof.Machine

-- Runs

theorem steps_trans {s t u : State} {a b : Nat} (h : steps a s = .next t) (k : steps b t = .next u) :
    steps (a + b) s = .next u := by
  induction a generalizing s with
  | zero =>
    cases h
    rw [Nat.zero_add]
    exact k
  | succ a ih =>
    rw [Nat.succ_add]
    rw [steps] at h ⊢
    cases hs : step s with
    | next v => rw [hs] at h; exact ih h
    | fault f => rw [hs] at h; cases h
    | refused r => rw [hs] at h; cases h

/-- With no host action waiting, READIMG's own transition is the step. -/
theorem step_readimg_own {s t : State} {q : Seq} (hr : Running 0x05#8 q s) (hh : s.host = []) (hp : seqPayload s = none)
    (ha : readimgStep s = some t) : step s = .next t := by
  obtain ⟨hb, hf, ho, -⟩ := hr
  have hpop : popHost s = s := by rw [popHost, hh, List.tail_nil, ← hh]
  have word : seqWord s = encode .readimg := by rw [seqWord, hp, ho]; rfl
  rw [(step_of_word hb hf (.inl hh) rfl word).2, hpop]
  exact runOperation_runs hb hf ho _ ha

/-- With no host action waiting, a frame that is due is the step. -/
theorem step_due {s t : State} {i : Instr} (hr : s.status.busy = true ∧ s.status.fatal = false) (hh : s.host = [])
    (hw : i.wellFormed = true) (hd : due i s) (hx : exec i s = .next t) : step s = .next t := by
  have hpop : popHost s = s := by rw [popHost, hh, List.tail_nil, ← hh]
  rw [(step_of_word hr.1 hr.2 (.inl hh) hw (seqWord_of_due hd)).2, hpop, hx]

-- The state between two blocks

/-- What a transfer of `s` without a mismatch keeps from its first frame to its last block: the engine's flags, latches
and records, an empty list of host actions, and `IMG`. -/
structure Undisturbed (s t : State) : Prop where
  status : t.status = s.status
  latch : t.latch = s.latch
  cancel : t.cancel = false
  host : t.host = []
  err : t.err = s.err
  log : t.log = s.log
  esticky : t.esticky = s.esticky
  substCnt : t.substCnt = 0#7
  substMap : t.substMap = 0#75
  img : t.img = s.img
  memEpoch : t.memEpoch = s.memEpoch
  raw_wf : Memory.wf t.raw = true

/-- The blocks `done` are stored and acknowledged, the blocks `todo` are still to be read (44_transfer R143 to R148). -/
structure Between (s : State) (calls : List LinkCall) (answers : List Answer) (done todo : List (List Byte))
    (t : State) : Prop where
  undisturbed : Undisturbed s t
  seq : t.seq = if todo = [] then .riEpi else .riBlk
  blk : t.blk.toNat = done.length
  nblk : t.nblk.toNat = done.length + todo.length
  answers : t.answers = attemptAnswers todo ++ answers
  traffic : t.traffic = calls ++ attemptCalls done [0x4B#8, 0x34#8]
  payload : ∀ (k j : Nat) (h : k < done.length), j < 8192 → rawByte (8192 * k + j) t = done[k].getD j 0#8
  beyond : ∀ a, 8192 * done.length ≤ a → rawByte a t = rawByte a s
  unwritten : ∀ a, Ranges.has t.rawUnwritten a = (Ranges.has s.rawUnwritten a && decide (8192 * done.length ≤ a))

/-- The state after a good read of the block `BLK` (44_transfer R144, R145). -/
def accepted (r : List Byte) (t : State) : State :=
  goto .riAck { storeBlock (r.take 8192) (callDone (.read 8193 r) { t with lrcAcc := 0#8 }) with
    lrcAcc := lrc (r.take 8192) }

theorem riBlk_good {t : State} {r : List Byte} (hc : t.cancel = false) (hr : readLink 8193 t = r) (hg : goodRead r) :
    riBlk t = accepted r t := by
  subst hr
  rcases riBlk_cases t with ⟨h, -⟩ | ⟨h, -⟩ | ⟨-, h, -⟩ | ⟨-, -, h⟩ | ⟨-, h, -⟩ | ⟨-, h, -⟩
  · exact absurd h (by simp [hc])
  · exact absurd h (by simp [hc])
  · exact absurd hg.1 h.ne
  · exact h
  · exact absurd hg.2 h.2
  · exact absurd hg.2 h.2

theorem readLink_of_cons {t : State} {y : Bool} {r : List Byte} {rest : List Answer} (h : t.answers = ⟨y, r⟩ :: rest)
    {n : Nat} (hl : r.length = n) : readLink n t = r := by
  rw [readLink, nextAnswer_cons h, List.take_of_length_le hl.le]

theorem linkOk_of_cons {t : State} {x : List Byte} {rest : List Answer} (h : t.answers = ⟨true, x⟩ :: rest) :
    linkOk t = true := by
  rw [linkOk, nextAnswer_cons h]

/-- The block is read, found good and acknowledged: two steps to the state before the next one. -/
theorem between_block {s t : State} {calls : List LinkCall} {answers : List Answer} {done todo : List (List Byte)}
    {r : List Byte} (hs : Running 0x05#8 .riX s) (hg : goodRead r) (hn : done.length + todo.length < 75)
    (h : Between s calls answers done (r :: todo) t) :
    ∃ u, steps 2 t = .next u ∧ Between s calls answers (done ++ [r]) todo u := by
  obtain ⟨hb, hf, ho, -⟩ := hs
  have hu := h.undisturbed
  have hrun : Running 0x05#8 .riBlk t := ⟨hu.status ▸ hb, hu.status ▸ hf, hu.latch ▸ ho, h.seq⟩
  have hans : t.answers = ⟨true, r⟩ :: ⟨true, []⟩ :: (attemptAnswers todo ++ answers) := h.answers
  have read : step t = .next (accepted r t) := by
    refine step_readimg_own hrun hu.host (by rw [seqPayload, hrun.2.2.2]) ?_
    rw [readimgStep, hrun.2.2.2, ← riBlk_good hu.cancel (readLink_of_cons hans hg.1) hg]
  have hack : Running 0x05#8 .riAck (accepted r t) := ⟨hrun.1, hrun.2.1, hrun.2.2.1, rfl⟩
  have hans' : (accepted r t).answers = ⟨true, []⟩ :: (attemptAnswers todo ++ answers) := congrArg List.tail hans
  have ack : step (accepted r t) = .next (nextBlock (written [0x4B#8, 0x34#8] true (accepted r t))) := by
    refine step_due (i := .frameK) ⟨hack.1, hack.2.1⟩ hu.host rfl (.inr hack) ?_
    have other : runsAt 0x13#8 .dcTx (accepted r t) = false := by simp [runsAt, hack.2.2.1]
    rw [exec, execFrameK, if_neg (by simp [other]), whenDue_of_due ((runsAt_iff _ _ _).2 hack), riAck,
      emit_ok (linkOk_of_cons hans'), emitted_eq_written, linkOk_of_cons hans']
    rfl
  refine ⟨_, steps_two read ack, ?_⟩
  have store : ∀ a, rawByte a (nextBlock (written [0x4B#8, 0x34#8] true (accepted r t))) =
      if 8192 * t.blk.toNat ≤ a ∧ a < 8192 * t.blk.toNat + 8192 then (r.take 8192).getD (a - 8192 * t.blk.toNat) 0#8
      else rawByte a t :=
    rawByte_storeBlock (by rw [List.length_take, hg.1]; rfl) (callDone (.read 8193 r) { t with lrcAcc := 0#8 })
  have hblk := h.blk
  have hnblk := h.nblk
  rw [List.length_cons] at hnblk
  have next : (t.blk + 1#7).toNat = done.length + 1 := by bv_omega
  exact
    { undisturbed :=
        { status := hu.status, latch := hu.latch, cancel := hu.cancel, host := hu.host, err := hu.err, log := hu.log
          esticky := hu.esticky, substCnt := hu.substCnt, substMap := hu.substMap, img := hu.img
          memEpoch := hu.memEpoch, raw_wf := Memory.put_wf hu.raw_wf _ _ }
      seq := by
        show (if t.blk + 1#7 = t.nblk then Seq.riEpi else Seq.riBlk) = _
        cases todo with
        | nil => rw [if_pos (BitVec.eq_of_toNat_eq (by rw [next, hnblk]; rfl)), if_pos rfl]
        | cons r' todo =>
          rw [if_neg (fun he => ?_), if_neg (by simp)]
          rw [he, hnblk, List.length_cons] at next
          omega
      blk := by
        show (t.blk + 1#7).toNat = _
        rw [next]; simp
      nblk := by
        show t.nblk.toNat = _
        rw [hnblk]; simp; omega
      answers := congrArg List.tail hans'
      traffic := by
        show (t.traffic ++ [_]) ++ [_] = _
        rw [h.traffic]
        simp [attemptCalls]
      payload := by
        intro k j hk hj
        rw [store, hblk]
        rw [List.length_append, List.length_singleton] at hk
        by_cases hkd : k < done.length
        · rw [if_neg (by omega), List.getElem_append_left hkd]
          exact h.payload k j hkd hj
        · have hkd : k = done.length := by omega
          subst hkd
          rw [if_pos (by omega), Nat.add_sub_cancel_left, List.getElem_concat_length rfl]
          simp [List.getD, hj]
      beyond := by
        intro a ha
        rw [List.length_append, List.length_singleton] at ha
        rw [store, hblk, if_neg (by omega)]
        exact h.beyond a (by omega)
      unwritten := by
        intro a
        show Ranges.has (Ranges.remove t.rawUnwritten (8192 * t.blk.toNat) 8192) a = _
        rw [Ranges.has_remove, h.unwritten, hblk, Bool.and_assoc, List.length_append, List.length_singleton]
        congr 1
        rw [Bool.eq_iff_iff]
        simp only [Bool.and_eq_true, Bool.not_eq_true', Bool.and_eq_false_iff, decide_eq_true_eq,
          decide_eq_false_iff_not]
        omega }

/-- All blocks in a row. -/
theorem between_all {s : State} {calls : List LinkCall} {answers : List Answer} (hs : Running 0x05#8 .riX s)
    (todo : List (List Byte)) : ∀ (done : List (List Byte)) (t : State), (∀ r ∈ todo, goodRead r) →
      done.length + todo.length ≤ 75 → Between s calls answers done todo t →
      ∃ u, steps (2 * todo.length) t = .next u ∧ Between s calls answers (done ++ todo) [] u := by
  induction todo with
  | nil =>
    intro done t _ _ h
    exact ⟨t, rfl, by rwa [List.append_nil]⟩
  | cons r todo ih =>
    intro done t hg hn h
    rw [List.length_cons] at hn
    obtain ⟨v, hv, hb⟩ := between_block hs (hg r (by simp)) (by omega) h
    obtain ⟨u, hu, hall⟩ := ih (done ++ [r]) v (fun x hx => hg x (by simp [hx])) (by simp; omega) hb
    refine ⟨u, ?_, by simpa using hall⟩
    have := steps_trans hv hu
    rwa [show 2 * (r :: todo).length = 2 + 2 * todo.length by rw [List.length_cons]; omega]

/-- The traffic of a transfer up to its first block. -/
def openingCalls (sync : List Byte) : List LinkCall := [.write [0x58#8, 0x27#8] true, .read 1 sync]

/-- The state after `X` is written, the record of substituted blocks cleared (44_transfer R141). -/
def opened (s : State) : State :=
  goto .riSync (written [0x58#8, 0x27#8] true { s with substCnt := 0#7, substMap := 0#75 })

/-- `X` is written and the sync byte read: two steps to the state before the first block (44_transfer R141, R142). -/
theorem between_open {s : State} {x0 sync : List Byte} {y1 : Bool} {replies : List (List Byte)} {answers : List Answer}
    (hs : Running 0x05#8 .riX s) (hc : s.cancel = false) (hh : s.host = []) (hw : Memory.wf s.raw = true)
    (hn : replies.length = (blockCount s.latch.crop).toNat) (hl : sync.length = 1)
    (ha : s.answers = ⟨true, x0⟩ :: ⟨y1, sync⟩ :: (attemptAnswers replies ++ answers)) :
    ∃ t, steps 2 s = .next t ∧ Between s (s.traffic ++ openingCalls sync) answers [] replies t := by
  have first : step s = .next (opened s) := by
    refine step_due (i := .frameX) ⟨hs.1, hs.2.1⟩ hh rfl hs ?_
    have ok : linkOk { s with substCnt := 0#7, substMap := 0#75 } = true := linkOk_of_cons ha
    rw [exec, execFrameX, whenDue_of_due ((runsAt_iff _ _ _).2 hs), riX, emit_ok ok, emitted_eq_written, ok]
    rfl
  have hans : (opened s).answers = _ := congrArg List.tail ha
  have second : step (opened s) = .next (goto .riBlk { callDone (.read 1 sync) (opened s) with
      nblk := blockCount s.latch.crop, blk := 0#7, att := 0#3 }) := by
    refine step_readimg_own (q := .riSync) ⟨hs.1, hs.2.1, hs.2.2.1, rfl⟩ hh rfl (congrArg some ?_)
    rw [riSync, afterRead, readLink_of_cons hans hl, if_neg (by omega)]
    rfl
  refine ⟨_, steps_two first second, ?_⟩
  have nonempty : replies ≠ [] := by
    rintro rfl
    revert hn
    cases s.latch.crop <;> simp [blockCount]
  exact
    { undisturbed :=
        { status := rfl, latch := rfl, cancel := hc, host := hh, err := rfl, log := rfl, esticky := rfl, substCnt := rfl
          substMap := rfl, img := rfl, memEpoch := rfl, raw_wf := hw }
      seq := (if_neg nonempty).symm
      blk := rfl
      nblk := by
        rw [hn]
        exact (Nat.zero_add _).symm
      answers := congrArg List.tail hans
      traffic := by simp [openingCalls, attemptCalls, opened, goto, written, callDone]
      payload := fun k j hk => absurd hk (Nat.not_lt_zero k)
      beyond := fun _ _ => rfl
      unwritten := fun a => by simp [opened, goto, written, callDone] }

/-- The epilogue is read and the image decoded: the last two steps (44_transfer R149, R150). -/
theorem between_close {s t : State} {epilogue : List Byte} {y2 : Bool} {calls : List LinkCall}
    {replies : List (List Byte)} {rest : List Answer} (hs : Running 0x05#8 .riX s) (hl : epilogue.length = 5)
    (h : Between s calls (⟨y2, epilogue⟩ :: rest) replies [] t) :
    steps 2 t = .next (complete true (decodeRaw s.latch.crop (goto .riDec (callDone (.read 5 epilogue) t)))) := by
  obtain ⟨hb, hf, ho, -⟩ := hs
  have hu := h.undisturbed
  have hq : t.seq = .riEpi := h.seq
  have hrun : Running 0x05#8 .riEpi t := ⟨hu.status ▸ hb, hu.status ▸ hf, hu.latch ▸ ho, hq⟩
  have read : step t = .next (goto .riDec (callDone (.read 5 epilogue) t)) := by
    refine step_readimg_own hrun hu.host (by rw [seqPayload, hq]) ?_
    have hread := readLink_of_cons h.answers hl
    rw [readimgStep, hq]
    refine congrArg some ?_
    rw [riEpi, afterRead, hread, if_neg (by omega)]
  refine steps_two read (step_readimg_own (q := .riDec) ⟨hrun.1, hrun.2.1, hrun.2.2.1, rfl⟩ hu.host rfl ?_)
  rw [← hu.latch]
  rfl

end Sys2Proof.Machine

open Sys2Proof Sys2Proof.Machine

/-- Settles O39: the opening, an induction over the blocks, the epilogue and the decode. -/
theorem cleanTransferCompletes : Obligations.CleanTransferCompletes := by
  intro s x0 sync epilogue y1 y2 replies rest hs hc hh hw hn hg hl1 hl5 ha
  have blocks : replies.length = (blockCount s.latch.crop).toNat := by
    rw [hn]
    cases s.latch.crop <;> rfl
  have few : replies.length ≤ 75 := by
    rw [hn]
    split <;> omega
  have script : s.answers = ⟨true, x0⟩ :: ⟨y1, sync⟩ :: (attemptAnswers replies ++ ⟨y2, epilogue⟩ :: rest) := by
    rw [ha]; simp
  obtain ⟨t0, run0, h0⟩ := between_open hs hc hh hw blocks hl1 script
  obtain ⟨t1, run1, h1⟩ := between_all hs replies [] t0 hg (by simpa using few) h0
  rw [List.nil_append] at h1
  have run2 := between_close hs hl5 h1
  have run := steps_trans run0 (steps_trans run1 run2)
  rw [show 2 + (2 * replies.length + 2) = 2 * replies.length + 4 by omega] at run
  have hu := h1.undisturbed
  refine ⟨_, run, ?_, rfl, hu.err, hu.log, hu.esticky, hu.substCnt, hu.substMap, congrArg List.tail h1.answers, ?_,
    h1.payload, h1.beyond, h1.unwritten, fun r c hr hcol => ?_, fun a ha => ?_⟩
  · show Status.mk false true true t1.status.fatal = _
    rw [hu.status, hs.2.1]
  · show t1.traffic ++ [_] = _
    rw [h1.traffic]
    rfl
  · exact imgWord_decodeRaw (s := goto .riDec (callDone (.read 5 epilogue) t1)) hu.raw_wf s.latch.crop hr hcol
  · refine (imgWord_decodeRaw_beyond s.latch.crop (goto .riDec (callDone (.read 5 epilogue) t1)) ha).trans ?_
    show (Memory.lookup t1.img a).getD (Config.imgContent t1.memEpoch a) = _
    rw [hu.img, hu.memEpoch]
    rfl
end

section
/-! PROOFS. The decoder against the encoder in both directions, the words written out from the tables, and the reserved
codes. -/

namespace Sys2Proof.Machine

-- The bytes the decoder accepts (30_encoding R60, R71)

/-- A command byte that the decoder accepts alone is the whole payload of its frame (30_encoding R61). -/
theorem encode_of_decodeW2 {c : Byte} {i : Instr} (h : decodeW2 c = .ok i) :
    i.wellFormed = true ∧ encode i = framed [c] := by
  unfold decodeW2 at h
  split at h <;> cases h <;> exact ⟨rfl, rfl⟩

/-- A command byte and an argument that the decoder accepts are the payload of their frame (30_encoding R62). -/
theorem encode_of_decodeW3 {c a : Byte} {i : Instr} (h : decodeW3 c a = .ok i) :
    i.wellFormed = true ∧ encode i = framed [c, a] := by
  unfold decodeW3 at h
  split at h <;> cases h <;> exact ⟨rfl, rfl⟩

/-- Three bytes, most significant first, are the bytes of the number they make (30_encoding R67). -/
theorem byteOf_ticks (t2 t1 t0 : Byte) :
    byteOf (t2.toNat * 65536 + t1.toNat * 256 + t0.toNat) 2 = t2 ∧
      byteOf (t2.toNat * 65536 + t1.toNat * 256 + t0.toNat) 1 = t1 ∧
      byteOf (t2.toNat * 65536 + t1.toNat * 256 + t0.toNat) 0 = t0 := by
  refine ⟨BitVec.eq_of_toNat_eq ?_, BitVec.eq_of_toNat_eq ?_, BitVec.eq_of_toNat_eq ?_⟩ <;>
    simp only [byteOf, BitVec.toNat_ofNat] <;> omega

/-- A longer payload that the decoder accepts is the diagnostic one or an exposure's, byte for byte (30_encoding R63,
R64). -/
theorem encode_of_decodeLong {p : List Byte} {i : Instr} (h : decodeLong p = .ok i) :
    i.wellFormed = true ∧ encode i = framed p := by
  unfold decodeLong at h
  split at h
  · split at h <;> cases h
    rename_i hp
    exact ⟨rfl, by rw [hp]; rfl⟩
  · rename_i c t2 t1 t0 y1 y0
    split at h <;> cases h
    rename_i hp
    obtain ⟨rfl, rfl, hy⟩ := hp
    obtain ⟨h2, h1, h0⟩ := byteOf_ticks t2 t1 t0
    refine ⟨decide_eq_true (by omega), ?_⟩
    rw [encode, h2, h1, h0]
    rcases hy with rfl | rfl <;> rfl
  · cases h

/-- Every payload the decoder accepts is the payload of its instruction's frame. -/
theorem encode_of_decodePayload {p : List Byte} {i : Instr} (h : decodePayload p = .ok i) :
    i.wellFormed = true ∧ encode i = framed p := by
  unfold decodePayload at h
  split at h
  exacts [encode_of_decodeW2 h, encode_of_decodeW3 h, encode_of_decodeLong h]

/-- A frame that the decoder accepts is its payload and the checksum of it (30_encoding R60). -/
theorem decodeFrame_ok {bytes : List Byte} {i : Instr} (hne : bytes ≠ []) (h : decodeFrame bytes = .ok i) :
    ∃ p, bytes = framed p ∧ decodePayload p = .ok i := by
  simp only [decodeFrame] at h
  split at h
  · rename_i hc
    refine ⟨_, ?_, h⟩
    rw [framed, hc, Option.toList_some, List.getLastD_eq_getLast?, List.getLast?_eq_some_getLast hne, Option.getD_some,
      List.dropLast_concat_getLast]
  · cases h

-- The reserved codes (30_encoding R82)

/-- The codes outside the table are the three reserved ranges. -/
theorem reserved_iff (op : Byte) :
    (op = 0x00#8 ∨ (0x07#8 ≤ op ∧ op ≤ 0x0F#8) ∨ 0x18#8 ≤ op) ↔ ∀ x ∈ hostOps, x.1 ≠ op := by
  simp only [hostOps, List.forall_mem_cons, List.not_mem_nil, IsEmpty.forall_iff, implies_true, and_true]
  bv_omega

/-- The decoder rejects a code by name exactly when the table does not have it. -/
theorem decode_reserved_iff (op : Byte) : decode [op] = .error (.reservedCode op) ↔ ∀ x ∈ hostOps, x.1 ≠ op := by
  constructor
  · rintro h ⟨_, i, q⟩ hm rfl
    exact absurd ((decode_hostOp hm).symm.trans h) (by simp)
  · intro h
    rcases decode_code op with ⟨i, q, hm⟩ | hd
    · exact absurd rfl (h _ hm)
    · exact hd

end Sys2Proof.Machine

open Sys2Proof Sys2Proof.Machine

/-- Settles O1: a frame's checksum is taken off again, and the tick count comes back from its three bytes. -/
theorem decodeUndoesEncode : Obligations.DecodeUndoesEncode := decode_encode

/-- Settles O2, by the number of bytes: a code of the table, or a payload with its checksum. -/
theorem decodedBytesAreTheEncoding : Obligations.DecodedBytesAreTheEncoding := by
  intro bytes i h
  match bytes with
  | [] => cases h
  | [op] =>
    rcases decode_code op with ⟨j, q, hm⟩ | hd
    · obtain ⟨hj, he, hw⟩ := hostOps_codes _ hm
      cases hj.symm.trans h
      exact ⟨hw, he⟩
    · cases hd.symm.trans h
  | b :: c :: rest =>
    obtain ⟨p, hp, hd⟩ := decodeFrame_ok (List.cons_ne_nil b _) h
    rw [hp]
    exact encode_of_decodePayload hd

/-- Settles O3, word by word. -/
theorem writtenOutWordsDecode : Obligations.WrittenOutWordsDecode :=
  ⟨rfl, rfl, rfl, rfl, rfl, rfl, rfl, rfl, rfl, rfl, rfl⟩

/-- Settles O13: a reserved code is outside the table, and its start is `raise InvalidOperation` (log 7). -/
theorem reservedCodeRaises : Obligations.ReservedCodeRaises := by
  refine ⟨fun op => (decode_reserved_iff op).trans (reserved_iff op).symm, fun s v rest op hi hh hv hr => ?_⟩
  have hd := (decode_reserved_iff op).2 ((reserved_iff op).1 hr)
  have hf := fetch_of_cmd hi hh
  rw [hv] at hf
  have hp : popHost s = { s with host := rest } := by rw [popHost, hh, List.tail_cons]
  rw [(stepRunsTheDecodedInstruction s).2.1 op _ hf hd hi.1, hp, startReserved, start_eq op _ { s with host := rest }
    (congrArg (Status.mk true false false) hi.2)]
  rfl
end

section
/-! PROOFS. The frames: the operation that writes each, the transition it takes there, and which transitions write to the
link at all. -/

namespace Sys2Proof.Machine

-- The operation that writes a frame (30_encoding R71, R84)

theorem Running.code {op : Byte} {q : Seq} {s : State} (h : Running op q s) : s.latch.op = op := h.2.2.1

theorem Running.place {op : Byte} {q : Seq} {s : State} (h : Running op q s) : s.seq = q := h.2.2.2

/-- Operation `k` is the one that runs in `s`, and takes there the transition to `t`, which frame `i` takes too. -/
structure WrittenBy (i k : Instr) (s t : State) : Prop where
  code : ∃ first, (s.latch.op, k, first) ∈ hostOps
  frame : exec i s = .next t
  operation : exec k s = .next t
  move : Transition s t

/-- A frame that is due at `q` of operation `op`, whose transitions are `advance`. -/
theorem writtenBy_of {i k : Instr} {op : Byte} {q first : Seq} {advance : State → Option State} {s t : State}
    (h : Running op q s) (hm : (op, k, first) ∈ hostOps) (hx : exec k s = runOperation op first advance s)
    (ha : advance s = some t) (hi : exec i s = .next t) (ht : Transition s t) : WrittenBy i k s t :=
  ⟨⟨first, h.code ▸ hm⟩, hi, hx.trans (runOperation_runs h.1 h.2.1 h.code first ha), ht⟩

/-- The frame of a single-command operation without a reply (46_device_control R170). -/
theorem writtenBy_dcOnly {i k : Instr} {op c : Byte} {args : State → List Byte} {s : State} (h : Running op .dcTx s)
    (hm : (op, k, .dcTx) ∈ hostOps) (hx : exec k s = runOperation op .dcTx (fun s => dcOnly c (args s) s) s)
    (hp : controlPayload s.latch = some (c, args s)) (hr : replyLength op = 0)
    (hi : exec i s = .next (dcTx c (args s) 0 s)) : WrittenBy i k s (dcTx c (args s) 0 s) :=
  writtenBy_of h hm hx (if_pos h.place) hi (transition_dcTx h hp hr.symm)

/-- The frame of PING or FWQUERY (46_device_control R171, R176). -/
theorem writtenBy_dcReply {i k : Instr} {op c : Byte} {rx : State → State} {s : State} (h : Running op .dcTx s)
    (hm : (op, k, .dcTx) ∈ hostOps) (hx : exec k s = runOperation op .dcTx (dcReply c rx) s)
    (hp : controlPayload s.latch = some (c, [])) (hr : replyLength op = 2)
    (hi : exec i s = .next (dcTx c [] 2 s)) : WrittenBy i k s (dcTx c [] 2 s) :=
  writtenBy_of h hm hx (by rw [dcReply, h.place]) hi (transition_dcTx h hp hr.symm)

/-- The transition of a frame of HEATER or CHOP that is due. -/
theorem frameOn_of_due {op : Byte} {on : Bool} {s : State} (h : Running op .dcTx s) (hl : s.latch.on = on) (c : Byte) :
    frameOn op c on s = .next (dcTx c [bitByte s.latch.on] 0 s) := by
  rw [frameOn, whenDue_of_due (by rw [(runsAt_iff op .dcTx s).2 h]; simp [hl]), hl]

theorem rateOf_rateBps (r : Rate) : rateOf (rateBps r) = some r := by cases r <;> rfl

/-- The `B` frame of the requested rate (42_baud R122). -/
theorem writtenBy_bnCmd {i : Instr} {r : Rate} {s : State} (h : Running 0x03#8 .bnCmd s)
    (hr : s.latch.rate = rateBps r) (hx : exec i s = frameB r s) : WrittenBy i .setbaud s (bnCmd r s) := by
  have hr : rateOf s.latch.rate = some r := by rw [hr, rateOf_rateBps]
  refine writtenBy_of h (by simp [hostOps]) rfl (by rw [setbaudStep, h.place, hr]; rfl) ?_ (.bnCmd r h hr)
  rw [hx, frameB, whenDue_of_due (by rw [(runsAt_iff _ _ _).2 h, hr]; simp)]

/-- Every frame that is due is written by the operation that runs (30_encoding R71, R84). -/
theorem writtenBy_of_due {i : Instr} {s : State} (h : due i s) : ∃ k t, WrittenBy i k s t := by
  have runs {op : Byte} {q : Seq} (hr : Running op q s) : runsAt op q s = true := (runsAt_iff op q s).2 hr
  cases i with
  | cksum | send | setbaud | startexp | readimg | decodePix => exact h.elim
  | ping | shopen | shclose | shdeen | abortexp | fwquery | heater | chop => exact h.elim
  | frameE =>
    exact ⟨.ping, _, writtenBy_dcReply h (by simp [hostOps]) rfl (by simp [controlPayload, h.code]) rfl
      (whenDue_of_due (runs h) _ _)⟩
  | frameV =>
    exact ⟨.fwquery, _, writtenBy_dcReply h (by simp [hostOps]) rfl (by simp [controlPayload, h.code]) rfl
      (whenDue_of_due (runs h) _ _)⟩
  | frameO =>
    exact ⟨.shopen, _, writtenBy_dcOnly (args := fun _ => []) h (by simp [hostOps]) rfl
      (by simp [controlPayload, h.code]) rfl (whenDue_of_due (runs h) _ _)⟩
  | frameC =>
    exact ⟨.shclose, _, writtenBy_dcOnly (args := fun _ => []) h (by simp [hostOps]) rfl
      (by simp [controlPayload, h.code]) rfl (whenDue_of_due (runs h) _ _)⟩
  | frameA =>
    exact ⟨.abortexp, _, writtenBy_dcOnly (args := fun _ => []) h (by simp [hostOps]) rfl
      (by simp [controlPayload, h.code]) rfl (whenDue_of_due (runs h) _ _)⟩
  | frameK =>
    rcases h with h | h
    · exact ⟨.shdeen, _, writtenBy_dcOnly (args := fun _ => []) h (by simp [hostOps]) rfl
        (by simp [controlPayload, h.code]) rfl (by rw [exec, execFrameK, if_pos (runs h)])⟩
    · have other : runsAt 0x13#8 .dcTx s = false := by simp [runsAt, h.code]
      refine ⟨.readimg, _, writtenBy_of h (by simp [hostOps]) rfl (by rw [readimgStep, h.place]) ?_ (.riAck h)⟩
      rw [exec, execFrameK, if_neg (by simp [other]), whenDue_of_due (runs h)]
  | frameG0 | frameG1 =>
    exact ⟨.heater, _, writtenBy_dcOnly (args := fun s => [bitByte s.latch.on]) h.1 (by simp [hostOps]) rfl
      (by simp [controlPayload, h.1.code]) rfl (frameOn_of_due h.1 h.2 _)⟩
  | frameU0 | frameU1 =>
    exact ⟨.chop, _, writtenBy_dcOnly (args := fun s => [bitByte s.latch.on]) h.1 (by simp [hostOps]) rfl
      (by simp [controlPayload, h.1.code]) rfl (frameOn_of_due h.1 h.2 _)⟩
  | frameB0 | frameB1 | frameB2 | frameB3 | frameB4 | frameB5 | frameB6 =>
    exact ⟨.setbaud, _, writtenBy_bnCmd h.1 (h.2.trans (by rfl)) rfl⟩
  | frameTest =>
    exact ⟨.setbaud, _, writtenBy_of h (by simp [hostOps]) rfl (by rw [setbaudStep, h.place])
      (whenDue_of_due (runs h) _ _) (.bnTest h)⟩
  | frameKconf =>
    exact ⟨.setbaud, _, writtenBy_of h (by simp [hostOps]) rfl (by rw [setbaudStep, h.place])
      (whenDue_of_due (runs h) _ _) (.bnConf h)⟩
  | frameT =>
    exact ⟨.startexp, _, writtenBy_of h.1 (by simp [hostOps]) rfl (by rw [startexpStep, h.1.place])
      (whenDue_of_due (by simp [runs h.1, h.2]) _ _) (.exTx h.1)⟩
  | frameX =>
    exact ⟨.readimg, _, writtenBy_of h (by simp [hostOps]) rfl (by rw [readimgStep, h.place])
      (whenDue_of_due (runs h) _ _) (.riX h)⟩
  | frameR =>
    exact ⟨.readimg, _, writtenBy_of h (by simp [hostOps]) rfl (by rw [readimgStep, h.place])
      (whenDue_of_due (runs h) _ _) (.riRetry h)⟩
  | frameS =>
    exact ⟨.readimg, _, writtenBy_of h (by simp [hostOps]) rfl (by rw [readimgStep, h.place])
      (whenDue_of_due (runs h) _ _) (.riAbort h)⟩

-- A frame that is not due (log 6)

theorem whenDue_refused_iff (d : Bool) (f : State → State) (s : State) :
    whenDue d f s = .refused .frameNotDue ↔ ¬ d = true := by
  cases d <;> simp [whenDue]

/-- A frame written in one state of the sequencer is refused outside it. -/
theorem whenDue_runsAt_refused_iff (op : Byte) (q : Seq) (f : State → State) (s : State) :
    whenDue (runsAt op q s) f s = .refused .frameNotDue ↔ ¬ Running op q s := by
  rw [whenDue_refused_iff, runsAt_iff, Running]

theorem frameOn_refused_iff (op c : Byte) (on : Bool) (s : State) :
    frameOn op c on s = .refused .frameNotDue ↔ ¬ (Running op .dcTx s ∧ s.latch.on = on) := by
  rw [frameOn, whenDue_refused_iff, Bool.and_eq_true, runsAt_iff, beq_iff_eq, Running]

theorem frameB_refused_iff (r : Rate) (s : State) :
    frameB r s = .refused .frameNotDue ↔ ¬ (Running 0x03#8 .bnCmd s ∧ s.latch.rate = rateBps r) := by
  have named : rateOf s.latch.rate = some r ↔ s.latch.rate = rateBps r :=
    ⟨rateOf_eq_some, fun h => by rw [h, rateOf_rateBps]⟩
  rw [frameB, whenDue_refused_iff, Bool.and_eq_true, runsAt_iff, beq_iff_eq, named, Running]

-- What a transition writes (41_dispatcher R110)

/-- The normal end of an operation, the flags of `STATUS` written out. -/
theorem complete_eq (ok : Bool) (s : State) {st : Status} (h : ⟨false, true, ok, s.status.fatal⟩ = st) :
    complete ok s = { s with status := st, seq := .idle } := by
  subst h; rfl

/-- How a transition of operation `op` that writes a frame goes on when the Transport took it. -/
def writeSuccess (op : Byte) (q : Seq) : State → State :=
  match q with
  | .dcTx => fun t => if replyLength op = 0 then complete true t else goto .dcRx t
  | .bnCmd => goto .bnRate
  | .bnTest => goto .bnReply
  | .bnConf => complete true
  | .exTx => goto .exWait
  | .riX => goto .riSync
  | .riAck => nextBlock
  | .riRetry => fun t => goto .riBlk { t with att := t.att + 1#3 }
  | .riAbort => fun t => nextBlock (substitute (logError .blockTransferAborted t.blk t.att t))
  | _ => id

/-- A transition from a state that writes a frame is the emission of that frame. -/
theorem transition_emits {s t : State} (h : Transition s t) {c : Byte} {args : List Byte}
    (hp : seqPayload s = some (c, args)) :
    t = emit c args (writeSuccess s.latch.op s.seq) (writeFailure s.seq) (writePrepared s.seq s) := by
  cases h with
  | dcTx p h hc =>
    rw [seqPayload, h.place, hc] at hp
    cases hp
    rw [h.place]
    rfl
  | bnCmd r h hr =>
    rw [seqPayload, h.place, hr] at hp
    cases hp
    rw [h.place]
    rfl
  | bnTest h | bnConf h | exTx h | riX h | riAck h | riRetry h | riAbort h =>
    rw [seqPayload, h.place] at hp
    cases hp
    rw [h.place]
    rfl
  | ckRun h | sdTx h | sdRx h | bnCheck h | bnRate _ h | bnAck h | bnReply h | bnRoll h | exWait h | riSync h | riBlk h
  | riEpi h | riDec h | deRun h | pingRx h | fwRx h =>
    rw [seqPayload, h.place] at hp
    cases hp

/-- A frame that is due and that the Transport takes. -/
theorem exec_due_taken {i : Instr} {s : State} (hd : due i s) (hl : linkOk s = true) :
    exec i s = .next (writeSuccess s.latch.op s.seq (written (encode i) true (writePrepared s.seq s))) := by
  obtain ⟨k, t, hw⟩ := writtenBy_of_due hd
  obtain ⟨c, args, -, hp, he, -⟩ := writesFrame_of_due hd
  have hl' := (linkOk_writePrepared s.seq s).trans hl
  rw [hw.frame, transition_emits hw.move hp, emit_ok hl', emitted_eq_written, hl', he]

/-- Where the frames stand that do more than move the sequencer: the beginning of a transfer, a retry, an abort, and the
frames that end their operation. -/
theorem due_place {i : Instr} {s : State} (h : due i s) :
    (i = .frameX ↔ s.seq = .riX) ∧ (i = .frameR ↔ s.seq = .riRetry) ∧ (i = .frameS ↔ s.seq = .riAbort) ∧
    (i ∈ [.frameO, .frameC, .frameA, .frameG0, .frameG1, .frameU0, .frameU1, .frameKconf] ∨
      i = .frameK ∧ s.latch.op = 0x13#8 ↔ s.seq = .bnConf ∨ s.seq = .dcTx ∧ replyLength s.latch.op = 0) := by
  cases i with
  | cksum | send | setbaud | startexp | readimg | decodePix => exact h.elim
  | ping | shopen | shclose | shdeen | abortexp | fwquery | heater | chop => exact h.elim
  | frameE | frameO | frameC | frameA | frameV => simp [h.code, h.place, replyLength]
  | frameK => rcases h with h | h <;> simp [h.code, h.place, replyLength]
  | frameG0 | frameG1 | frameU0 | frameU1 => simp [h.1.code, h.1.place, replyLength]
  | frameB0 | frameB1 | frameB2 | frameB3 | frameB4 | frameB5 | frameB6 => simp [h.1.code, h.1.place]
  | frameTest | frameKconf | frameX | frameR | frameS => simp [h.code, h.place]
  | frameT => simp [h.1.code, h.1.place]

/-- What an aborted block leaves beside its bytes of `RAW`: the record, the mark of the block, the place of the next one
(44_transfer R147, R148). -/
theorem writeSuccess_riAbort (op : Byte) (s : State) :
    writeSuccess op .riAbort s = { s with
      seq := (writeSuccess op .riAbort s).seq
      substCnt := s.substCnt + 1#7
      substMap := s.substMap ||| (1#75 <<< s.blk.toNat)
      blk := s.blk + 1#7
      att := 0#3
      log := s.log ++ [⟨3#8, s.latch.op, s.lastCmd, s.blk, s.att⟩]
      esticky := s.esticky ||| 0x8#32
      raw := (writeSuccess op .riAbort s).raw
      rawUnwritten := (writeSuccess op .riAbort s).rawUnwritten } := rfl

theorem writeSuccess_traffic (op : Byte) (q : Seq) (s : State) : (writeSuccess op q s).traffic = s.traffic := by
  cases q
  case dcTx => rw [writeSuccess]; split <;> rfl
  all_goals rfl

theorem writeFailure_traffic (q : Seq) (s : State) : (writeFailure q s).traffic = s.traffic := by
  cases q <;> rfl

theorem writePrepared_traffic (q : Seq) (s : State) : (writePrepared q s).traffic = s.traffic := by
  cases q <;> rfl

/-- Only an aborted block's bytes of `RAW` change when a frame is written (44_transfer R147). -/
theorem rawByte_writeSuccess {op : Byte} {q : Seq} {s : State} {a : Nat}
    (h : q = .riAbort → ¬ (8192 * s.blk.toNat ≤ a ∧ a < 8192 * s.blk.toNat + 8192)) :
    rawByte a (writeSuccess op q s) = rawByte a s := by
  cases q
  case dcTx => rw [writeSuccess]; split <;> rfl
  case riAbort =>
    have kept := rawByte_storeBlock (bytes := List.replicate blockBytes 0#8) (by rw [List.length_replicate]; rfl)
      (logError .blockTransferAborted s.blk s.att s) a
    exact kept.trans (if_neg (h rfl))
  all_goals rfl

/-- `Emit` makes one call, the write of its frame, when neither way on makes another. -/
theorem emit_traffic {next fail : State → State} (hn : ∀ u, (next u).traffic = u.traffic)
    (hf : ∀ u, (fail u).traffic = u.traffic) (c : Byte) (args : List Byte) (s : State) :
    (emit c args next fail s).traffic = s.traffic ++ [.write (framed (c :: args)) (linkOk s)] := by
  rw [← emitFrame_eq c args s, ← emitted_traffic]
  rcases emit_cases c args next fail s with ⟨-, h⟩ | ⟨-, h⟩
  · rw [h, hn]
  · rw [h, hf]

/-- SEND writes the first bytes of `TXBUF` as a frame, or writes nothing (41_dispatcher R112, R114). -/
theorem sdTx_traffic (s : State) :
    (sdTx s).traffic = s.traffic ∨
      ∃ c args, (sdTx s).traffic = s.traffic ++ [.write (framed (c :: args)) (linkOk s)] := by
  have next (u : State) :
      (if s.latch.resplen.toNat = 0 then complete true u else goto .sdRx u).traffic = u.traffic := by
    split <;> rfl
  rw [sdTx]
  split
  · exact .inl rfl
  · split
    · exact .inl rfl
    · exact .inr ⟨_, _, emit_traffic (fail := linkFatal) next (fun _ => rfl) _ _ s⟩

theorem not_write_of_quiet {s t : State} (h : t.traffic = s.traffic) (frame : List Byte) (ok : Bool) :
    t.traffic ≠ s.traffic ++ [.write frame ok] := by
  simp [h]

theorem not_write_of_read {s t : State} {n : Nat} {r : List Byte} (h : t.traffic = s.traffic ++ [.read n r])
    (frame : List Byte) (ok : Bool) : t.traffic ≠ s.traffic ++ [.write frame ok] := by
  simp [h]

theorem not_write_of_setBaud {s t : State} {r : Rate} {b : Bool} (h : t.traffic = s.traffic ++ [.setBaud r b])
    (frame : List Byte) (ok : Bool) : t.traffic ≠ s.traffic ++ [.write frame ok] := by
  simp [h]

/-- A transition from a state that writes no frame makes no write, but for SEND's. -/
theorem transition_not_write {s t : State} (h : Transition s t) (hp : seqPayload s = none) (hq : s.seq ≠ .sdTx) :
    ∀ frame ok, t.traffic ≠ s.traffic ++ [.write frame ok] := by
  cases h with
  | sdTx h => exact absurd h.place hq
  | dcTx p h hc => rw [seqPayload, h.place, hc] at hp; cases hp
  | bnCmd r h hr => rw [seqPayload, h.place, hr] at hp; cases hp
  | bnTest h | bnConf h | exTx h | riX h | riAck h | riRetry h | riAbort h =>
    rw [seqPayload, h.place] at hp
    cases hp
  | riDec | deRun => exact not_write_of_quiet rfl
  | ckRun =>
    refine not_write_of_quiet ?_
    rw [ckRun]
    split
    · rfl
    · simp
  | bnCheck =>
    refine not_write_of_quiet ?_
    rw [bnCheck]
    split <;> rfl
  | bnRate r =>
    refine not_write_of_setBaud (r := r) (b := linkOk s) ?_
    rw [bnRate]
    split <;> rfl
  | bnRoll =>
    refine not_write_of_setBaud (r := s.baudPrev) (b := linkOk s) ?_
    rw [bnRoll]
    split <;> rfl
  | bnAck => exact not_write_of_read (n := 2) (r := readLink 2 s) rfl
  | sdRx =>
    refine not_write_of_read (n := s.latch.resplen.toNat) (r := readLink s.latch.resplen.toNat s) ?_
    rw [sdRx]
    split <;> rfl
  | bnReply =>
    refine not_write_of_read (n := 7) (r := readLink 7 s) ?_
    rw [bnReply]
    split
    · rfl
    · split <;> rfl
  | exWait =>
    rw [exWait]
    split
    · exact not_write_of_quiet rfl
    · split
      · exact not_write_of_quiet rfl
      · refine not_write_of_read (n := 1) (r := readLink 1 s) ?_
        dsimp only
        split <;> rfl
  | riSync =>
    refine not_write_of_read (n := 1) (r := readLink 1 s) ?_
    rw [riSync]
    split <;> rfl
  | riEpi =>
    refine not_write_of_read (n := 5) (r := readLink 5 s) ?_
    rw [riEpi]
    split <;> rfl
  | pingRx =>
    refine not_write_of_read (n := 2) (r := readLink 2 s) ?_
    rw [pingRx]
    split <;> rfl
  | fwRx =>
    refine not_write_of_read (n := 2) (r := readLink 2 s) ?_
    rw [fwRx]
    split <;> rfl
  | riBlk =>
    have stored : (blockStored s).traffic = s.traffic ++ [.read 8193 (readLink 8193 s)] :=
      (moves_blockStored s).2.traffic
    rcases riBlk_cases s with ⟨-, -, h⟩ | ⟨-, -, h⟩ | ⟨-, -, h⟩ | ⟨-, -, h⟩ | ⟨-, -, -, h⟩ | ⟨-, -, -, h⟩ <;> rw [h]
    · exact not_write_of_quiet rfl
    · exact not_write_of_quiet rfl
    · exact not_write_of_read (n := 8193) (r := readLink 8193 s) rfl
    all_goals exact not_write_of_read stored

/-- What a transition writes is a frame: SEND's own bytes, or the payload of the state it starts from. -/
theorem transition_write {s t : State} {frame : List Byte} {ok : Bool} (h : Transition s t)
    (hw : t.traffic = s.traffic ++ [.write frame ok]) :
    ∃ c args, frame = framed (c :: args) ∧ (s.latch.op = 0x02#8 ∨ seqPayload s = some (c, args)) := by
  have same {f g : List Byte} {x y : Bool} {l : List LinkCall} (h : l ++ [.write f x] = l ++ [.write g y]) : f = g :=
    (LinkCall.write.inj (List.cons.inj (List.append_cancel_left h)).1).1
  cases hp : seqPayload s with
  | some p =>
    have ht := emit_traffic (writeSuccess_traffic s.latch.op s.seq) (writeFailure_traffic s.seq) p.1 p.2
      (writePrepared s.seq s)
    rw [← transition_emits h hp, hw, writePrepared_traffic] at ht
    exact ⟨p.1, p.2, same ht, .inr rfl⟩
  | none =>
    by_cases hq : s.seq = .sdTx
    · cases h with
      | sdTx hr =>
        rcases sdTx_traffic s with ht | ⟨c, args, ht⟩
        · exact absurd hw (not_write_of_quiet ht _ _)
        · exact ⟨c, args, same (hw.symm.trans ht), .inl hr.code⟩
      | _ => exact absurd hq (by simp [(‹Running _ _ _›).place])
    · exact absurd hw (transition_not_write h hp hq _ _)

/-- A frame is a payload and the checksum of it (30_encoding R60). -/
theorem framed_cons (c : Byte) (args : List Byte) :
    ∃ k, framed (c :: args) = (c :: args) ++ [k] ∧ compute (c :: args) = some k := ⟨_, rfl, rfl⟩

end Sys2Proof.Machine

open Sys2Proof Sys2Proof.Machine

/-- Settles O9: the code in `OPL` is that of the operation that writes the frame. -/
theorem frameIsItsOperationsTransition : Obligations.FrameIsItsOperationsTransition := by
  intro i j s hd hj
  obtain ⟨k, t, ⟨first, hm⟩, hi, hk, -⟩ := writtenBy_of_due hd
  cases (decode_hostOp hm).symm.trans hj
  rw [hi, hk]

/-- Settles O46, frame by frame: the guard of each frame's meaning is `due`. -/
theorem frameNotDueIsRefused : Obligations.FrameNotDueIsRefused := by
  intro i s hf
  cases i with
  | cksum | send | setbaud | startexp | readimg | decodePix => exact absurd hf (by simp [isFrame, encode])
  | ping | shopen | shclose | shdeen | abortexp | fwquery | heater | chop =>
    exact absurd hf (by simp [isFrame, encode])
  | frameE | frameO | frameC | frameA | frameV => exact whenDue_runsAt_refused_iff ..
  | frameTest | frameKconf | frameX | frameR | frameS => exact whenDue_runsAt_refused_iff ..
  | frameG0 | frameG1 | frameU0 | frameU1 => exact frameOn_refused_iff ..
  | frameB0 | frameB1 | frameB2 | frameB3 | frameB4 | frameB5 | frameB6 => exact frameB_refused_iff ..
  | frameK =>
    rw [exec, execFrameK, due, not_or]
    split
    · rename_i hr
      exact iff_of_false (by simp) (fun h => h.1 ((runsAt_iff _ _ s).1 hr))
    · rename_i hr
      rw [whenDue_runsAt_refused_iff]
      exact ⟨fun h => ⟨fun h' => hr ((runsAt_iff _ _ s).2 h'), h⟩, And.right⟩
  | frameT ticks light =>
    rw [exec, execFrameT, whenDue_refused_iff]
    simp only [Bool.and_eq_true, runsAt_iff, beq_iff_eq, due, Running, and_assoc]

/-- Settles O44: the frame is written, then the state that writes it goes on; only `S` touches `RAW`. -/
theorem dueFrameIsWritten : Obligations.DueFrameIsWritten := by
  intro i s hd hl
  obtain ⟨_, q, ⟨-, hf, rfl, hq⟩, hbel, -⟩ := due_running hd
  obtain ⟨hX, hR, hS, hE⟩ := due_place hd
  refine ⟨_, exec_due_taken hd hl, ?_, fun a ha => ?_, ?_⟩
  · rw [writeSuccess_traffic]
    exact congrArg (· ++ _) (writePrepared_traffic s.seq s)
  · have kept : rawByte a (written (encode i) true (writePrepared s.seq s)) = rawByte a s := by
      rw [hq]
      cases q <;> rfl
    refine (rawByte_writeSuccess fun hs => ?_).trans kept
    rw [hs]
    exact ha (hS.2 hs)
  · obtain ⟨c, args, -, hp, -⟩ := writesFrame_of_due hd
    have ended : Status.mk false true true s.status.fatal = ⟨false, true, true, false⟩ := by rw [hf]
    rw [seqPayload, hq] at hp
    cases q with
    | idle | fatal | ckRun | sdTx | sdRx | dcRx | bnCheck | bnRate | bnAck | bnReply | bnRoll | exWait | riSync | riBlk
    | riEpi | riDec | deRun => cases hp
    | dcTx =>
      by_cases hr : replyLength s.latch.op = 0 <;>
        simp only [hX, hR, hS, hE, hq, hr, writeSuccess, reduceCtorEq, if_true, if_false, and_true, and_false, or_true,
          or_false]
      · exact complete_eq true (written (encode i) true s) ended
      · rfl
    | bnConf =>
      simp only [hX, hR, hS, hE, hq, reduceCtorEq, if_true, if_false, true_or, or_false]
      exact complete_eq true (written (encode i) true s) ended
    | riAbort =>
      obtain rfl := hS.2 hq
      have ho : s.latch.op = 0x05#8 := eq_of_beq hbel
      simp only [hX, hR, hq, reduceCtorEq, if_true, if_false, or_false, false_and]
      rw [← ho]
      exact writeSuccess_riAbort s.latch.op (written (encode .frameS) true s)
    | bnCmd | bnTest | exTx | riX | riAck | riRetry =>
      simp only [hX, hR, hS, hE, hq, reduceCtorEq, if_true, if_false, or_true, or_false, false_and]
      rfl

/-- Settles O47: a write is a transition's; SEND's is a frame of its own bytes, any other the frame that is due. -/
theorem everyWriteIsAFrame : Obligations.EveryWriteIsAFrame := by
  intro s t frame ok hI h hw
  rcases step_kinds h with ⟨-, rfl⟩ | ha | ⟨-, op, -, q, -, -, rfl⟩ | ⟨-, op, rfl⟩ | ⟨-, ht⟩
  · exact absurd hw (not_write_of_quiet rfl _ _)
  · exact absurd hw (not_write_of_quiet ha.aside.of_popHost.calls.1 _ _)
  · exact absurd hw (not_write_of_quiet rfl _ _)
  · exact absurd hw (not_write_of_quiet rfl _ _)
  obtain ⟨c, args, hframe, hp⟩ := transition_write ht hw
  obtain ⟨k, hk, hc⟩ := framed_cons c args
  refine ⟨⟨c :: args, k, hframe.trans hk, hc⟩, hp.imp id fun hp => ?_⟩
  obtain ⟨hb, hf⟩ := ht.busy
  obtain ⟨i, -, hd⟩ := exists_due (s := s) hb hf (hI.seq_op hb) hp
  obtain ⟨c', args', -, hp', he, -⟩ := writesFrame_of_due hd
  cases hp.symm.trans hp'
  exact ⟨i, hd, he.trans hframe.symm⟩
end

section
/-! PROOFS. The checksum codec (40_checksum): the block LRC as an XOR over a list, the command checksum in closed form,
the checksum unit, CKSUM, and the read attempt of a block, which accepts by the LRC. -/

namespace Sys2Proof.Machine

-- The XOR of a list of bytes (40_checksum R104)

theorem foldl_xor (p : List Byte) (a : Byte) : p.foldl (· ^^^ ·) a = a ^^^ lrc p := by
  conv_lhs => rw [← BitVec.xor_zero (x := a)]
  exact List.foldl_assoc

@[simp] theorem lrc_nil : lrc [] = 0#8 := rfl

@[simp] theorem lrc_cons (b : Byte) (p : List Byte) : lrc (b :: p) = b ^^^ lrc p := by
  rw [lrc, List.foldl_cons, BitVec.zero_xor, foldl_xor]

theorem lrc_append (p q : List Byte) : lrc (p ++ q) = lrc p ^^^ lrc q := by
  rw [lrc, List.foldl_append, foldl_xor]
  rfl

theorem lrc_concat (p : List Byte) (b : Byte) : lrc (p ++ [b]) = lrc p ^^^ b := by simp [lrc_append]

theorem lrc_eq_of_perm {p q : List Byte} (h : List.Perm p q) : lrc p = lrc q := h.foldl_op_eq

theorem lrc_of_zeros {p : List Byte} (h : ∀ b ∈ p, b = 0#8) : lrc p = 0#8 := by
  induction p with
  | nil => rfl
  | cons b p ih =>
    obtain ⟨rfl, hp⟩ := List.forall_mem_cons.1 h
    rw [lrc_cons, ih hp, BitVec.xor_zero]

/-- XORing a value into one byte XORs it into the whole. -/
theorem lrc_set_xor (x : Byte) {p : List Byte} {k : Nat} (h : k < p.length) :
    lrc (p.set k (p[k] ^^^ x)) = lrc p ^^^ x := by
  induction p generalizing k with
  | nil => exact absurd h (Nat.not_lt_zero k)
  | cons b p ih =>
    cases k with
    | zero =>
      rw [List.set_cons_zero, lrc_cons, lrc_cons, List.getElem_cons_zero]
      ac_rfl
    | succ k =>
      rw [List.set_cons_succ, lrc_cons, lrc_cons, List.getElem_cons_succ, ih (Nat.lt_of_succ_lt_succ h),
        BitVec.xor_assoc]

/-- A value XORed with itself `n` times. -/
def xorTimes (n : Nat) (v : Byte) : Byte := if n % 2 = 1 then v else 0#8

theorem xorTimes_even {n : Nat} (h : n % 2 = 0) (v : Byte) : xorTimes n v = 0#8 := if_neg (by omega)

theorem xorTimes_succ (n : Nat) (v : Byte) : xorTimes (n + 1) v = xorTimes n v ^^^ v := by
  rcases Nat.mod_two_eq_zero_or_one n with h | h
  · rw [xorTimes_even h, BitVec.zero_xor, xorTimes, if_pos (by omega)]
  · rw [xorTimes_even (by omega), xorTimes, if_pos h, BitVec.xor_self]

/-- A value XORed into the flagged bytes comes out once for each flag. -/
theorem lrc_xorFlagged (v : Byte) {p : List Byte} {flags : List Bool} (h : flags.length = p.length) :
    lrc (List.zipWith (fun b f => if f then b ^^^ v else b) p flags) = lrc p ^^^ xorTimes (flags.count true) v := by
  induction p generalizing flags with
  | nil => simp [List.length_eq_zero_iff.1 h, xorTimes]
  | cons b p ih =>
    obtain ⟨f, flags, rfl⟩ := List.exists_cons_of_length_eq_add_one h
    rw [List.zipWith_cons_cons, lrc_cons, lrc_cons, ih (Nat.succ.inj h)]
    cases f with
    | false => rw [List.count_cons_of_ne (by decide), if_neg (by decide), BitVec.xor_assoc]
    | true =>
      rw [List.count_cons_self, xorTimes_succ, if_pos rfl]
      ac_rfl

-- The command checksum in closed form (40_checksum R100, R106)

theorem compute_singleton (b : Byte) : compute [b] = some (not8 b &&& 0x7F#8) := rfl

/-- The checksum goes on from the one of the bytes before. -/
theorem compute_concat {bs : List Byte} {c : Byte} (h : compute bs = some c) (b : Byte) :
    compute (bs ++ [b]) = some ((c ^^^ not8 b) &&& 0x7F#8) := by
  cases bs with
  | nil => exact absurd h (by simp [compute])
  | cons d bs =>
    rw [compute, Option.some_inj] at h
    rw [List.cons_append, compute, List.foldl_concat, h]

theorem not8_eq_xor (b : Byte) : not8 b = b ^^^ 0xFF#8 := by
  rw [not8, ← BitVec.xor_allOnes]
  rfl

theorem xor_and (x y m : Byte) : (x ^^^ y) &&& m = (x &&& m) ^^^ (y &&& m) :=
  BitVec.eq_of_getLsbD_eq fun i _ => by
    simp only [BitVec.getLsbD_and, BitVec.getLsbD_xor, Bool.and_xor_distrib_right]

/-- The seven low bits of the XOR of the bytes, inverted once for each byte. -/
def checksumOf (bs : List Byte) : Byte := (lrc bs ^^^ xorTimes bs.length 0xFF#8) &&& 0x7F#8

theorem checksumOf_concat (bs : List Byte) (b : Byte) :
    (checksumOf bs ^^^ not8 b) &&& 0x7F#8 = checksumOf (bs ++ [b]) := by
  have masked (x y : Byte) : ((x &&& 0x7F#8) ^^^ y) &&& 0x7F#8 = (x ^^^ y) &&& 0x7F#8 := by
    rw [xor_and, xor_and, BitVec.and_assoc, BitVec.and_self]
  rw [checksumOf, masked, not8_eq_xor, checksumOf, lrc_concat, List.length_append, List.length_singleton, xorTimes_succ]
  ac_rfl

theorem compute_eq_checksumOf {bs : List Byte} (h : bs ≠ []) : compute bs = some (checksumOf bs) := by
  induction bs using List.reverseRecOn with
  | nil => exact absurd rfl h
  | append_singleton bs b ih =>
    by_cases hbs : bs = []
    · subst hbs
      rw [List.nil_append, compute_singleton, not8_eq_xor]
      simp [checksumOf, xorTimes]
    · rw [compute_concat (ih hbs), checksumOf_concat]

theorem checksumOf_le (bs : List Byte) : (checksumOf bs).toNat ≤ 127 := Nat.and_le_right

/-- Bit 7 of a byte does not reach the checksum. -/
theorem checksumOf_set_bit7 {bs : List Byte} {k : Nat} (h : k < bs.length) :
    checksumOf (bs.set k (bs[k] ^^^ 0x80#8)) = checksumOf bs := by
  have top : (0x80#8 : Byte) &&& 0x7F#8 = 0#8 := rfl
  simp only [checksumOf, lrc_set_xor, List.length_set, xor_and, top, BitVec.xor_zero]

theorem checksumOf_eq_of_perm {bs ds : List Byte} (h : List.Perm bs ds) : checksumOf bs = checksumOf ds := by
  rw [checksumOf, checksumOf, lrc_eq_of_perm h, h.length_eq]

/-- The seven low bits of the inverted byte are 127 minus those of the byte. -/
theorem toNat_not_low (b : Byte) : (~~~b &&& 0x7F#8).toNat = 127 - (b &&& 0x7F#8).toNat := by
  have low (x : Byte) : (x &&& 0x7F#8).toNat = x.toNat % 128 := Nat.and_two_pow_sub_one_eq_mod x.toNat 7
  rw [low, low, BitVec.toNat_not]
  omega

-- CKSUM (40_checksum R101 to R103)

/-- The checksum unit, cleared, absorbs some bytes: it then holds their checksum, and nothing else has changed. -/
theorem cksAbsorbAll_compute {bs : List Byte} (h : bs ≠ []) (s : State) :
    ∃ c, compute bs = some c ∧ cksValue (cksAbsorbAll bs (cksClear s)) = c ∧
      cksAbsorbAll bs (cksClear s) = { s with cksAcc := c.setWidth 7, cksEmpty := false } := by
  obtain ⟨b, bs, rfl⟩ := List.exists_cons_of_ne_nil h
  refine ⟨_, compute_eq_cksValue b bs s, rfl, ?_⟩
  rw [cksValue, BitVec.setWidth_setWidth_of_le _ (by decide), BitVec.setWidth_eq, cksAbsorbAll_eq,
    cksEmpty_cksAbsorbAll_cons]
  rfl

theorem exec_cksum_of_running {s : State} (h : Running 0x01#8 .ckRun s) : exec .cksum s = .next (ckRun s) := by
  obtain ⟨hb, hf, ho, hq⟩ := h
  exact runOperation_runs (advance := fun s => if s.seq = .ckRun then some (ckRun s) else none) hb hf ho _ (if_pos hq)

/-- With a length that the check lets pass, the unit runs over the first bytes of `TXBUF`. -/
theorem ckRun_of_length {s : State} (h1 : 1 ≤ s.latch.txlen.toNat) (h16 : s.latch.txlen.toNat ≤ 16) :
    ckRun s = complete true
      { cksAbsorbAll (s.txbuf.take s.latch.txlen.toNat) (cksClear s) with
        resCks := cksValue (cksAbsorbAll (s.txbuf.take s.latch.txlen.toNat) (cksClear s)) } :=
  if_neg (by rw [Config.txBufBytes]; omega)

-- A read attempt of a block (44_transfer R143, R144)

theorem exec_readimg_of_riBlk {s : State} (h : Running 0x05#8 .riBlk s) : exec .readimg s = .next (riBlk s) := by
  obtain ⟨hb, hf, ho, hq⟩ := h
  exact runOperation_runs hb hf ho _ (by rw [readimgStep, hq])

/-- A cancellation ends the attempt; whatever becomes of the block's bytes, nothing else differs from the error entry. -/
theorem riBlk_cancelled {s : State} (hc : s.cancel = true) :
    riBlk s = { raise .cancelled s.blk s.att s with
      raw := (riBlk s).raw
      rawUnwritten := (riBlk s).rawUnwritten
      blkEpoch := (riBlk s).blkEpoch } := by
  rw [riBlk, if_pos hc]
  split <;> rfl

theorem blockStored_eq (s : State) :
    blockStored s = { callDone (.read 8193 (readLink 8193 s)) s with
      raw := Memory.put s.raw (8192 * s.blk.toNat) ((readLink 8193 s).take 8192)
      rawUnwritten := Ranges.remove s.rawUnwritten (8192 * s.blk.toNat) 8192
      lrcAcc := lrc ((readLink 8193 s).take 8192) } := rfl

/-- The log record of READIMG's mismatch, written out (60_exceptions R193, R215). -/
theorem logError_mismatch {s : State} (ho : s.latch.op = 0x05#8) (blk : BitVec 7) (att : BitVec 3) :
    logError .checksumMismatch blk att s = { s with
      log := s.log ++ [⟨2#8, 0x05#8, s.lastCmd, blk, att⟩]
      esticky := s.esticky ||| 0x4#32 } := by
  rw [logError, ho]
  rfl

/-- A mismatch is logged, and goes to the retry while attempts are left. -/
theorem riBlk_bad {s : State} (hc : s.cancel = false) (hr : badRead (readLink 8193 s)) :
    riBlk s = goto (if s.att.toNat < 5 then .riRetry else .riAbort)
      (logError .checksumMismatch s.blk s.att (blockStored s)) := by
  rcases riBlk_cases s with ⟨h, -⟩ | ⟨h, -⟩ | ⟨-, h, -⟩ | ⟨-, h, -⟩ | ⟨-, -, ha, h⟩ | ⟨-, -, ha, h⟩
  · exact absurd h (by simp [hc])
  · exact absurd h (by simp [hc])
  · exact absurd hr.1 h.ne
  · exact absurd h.2 hr.2
  · rw [h, if_pos (show s.att.toNat < 5 from ha)]
  · rw [h, if_neg (show ¬ s.att.toNat < 5 from ha)]

end Sys2Proof.Machine

open Sys2Proof Sys2Proof.Machine

/-- Settles O4: the unit's seven bits follow the fold of R100. -/
theorem checksumUnitComputes : Obligations.ChecksumUnitComputes := by
  intro s bs hne
  obtain ⟨c, hc, hv, ht⟩ := cksAbsorbAll_compute hne s
  exact ⟨by rw [hc, hv], by rw [ht]⟩

/-- Settles O5, each law from the closed form of `compute`. -/
theorem computeLaws : Obligations.ComputeLaws := by
  refine ⟨rfl, fun bs hne => ?_⟩
  have hc := compute_eq_checksumOf hne
  refine ⟨checksumOf bs, hc, rfl, checksumOf_le bs, fun k h => ?_, fun ds hp => ?_,
    fun b => ⟨compute_singleton b, toNat_not_low b⟩, compute_concat hc, ?_⟩
  · rw [compute_eq_checksumOf (by simpa using hne), checksumOf_set_bit7 h]
  · rw [compute_eq_checksumOf fun hd => hne (hd ▸ hp).eq_nil, checksumOf_eq_of_perm hp]
  · rw [compute_concat hc, not8_eq_xor, ← BitVec.xor_assoc, BitVec.xor_self]
    rfl

/-- Settles O6, from how `lrc` treats one more byte and an XOR into its bytes. -/
theorem lrcLaws : Obligations.LrcLaws := by
  intro p
  refine ⟨fun t => ?_, lrc_of_zeros, fun q hp => (lrc_eq_of_perm hp).symm, fun flags v hl he => ?_,
    fun k j h hj => ?_⟩
  · change lrc p = t ↔ lrc (p ++ [t]) = 0#8
    rw [lrc_concat, BitVec.xor_eq_zero_iff]
  · rw [lrc_xorFlagged v hl, xorTimes_even he, BitVec.xor_zero]
  · have bit : (1#8 <<< j : Byte) ≠ 0#8 := by interval_cases j <;> decide
    rw [lrc_set_xor]
    exact fun hx => bit (BitVec.xor_right_inj (lrc p) |>.1 (hx.trans BitVec.xor_zero.symm))

/-- Settles O18: the length check of R103, and the checksum unit run over `TXBUF[0..n-1]`. -/
theorem cksumResult : Obligations.CksumResult := by
  intro s hr hl
  rw [exec_cksum_of_running hr]
  refine ⟨fun h1 h16 => ?_, fun h => congrArg _ (if_pos h)⟩
  have hne : s.txbuf.take s.latch.txlen.toNat ≠ [] := by
    rw [← List.length_pos_iff, List.length_take]
    omega
  obtain ⟨c, hc, hv, ht⟩ := cksAbsorbAll_compute hne s
  refine ⟨c, hc, ?_⟩
  rw [ckRun_of_length h1 h16, hv, ht]
  exact congrArg _ (complete_eq true _ (congrArg (Status.mk false true true) hr.2.1))

/-- Settles O32, by what a read attempt can do. -/
theorem blockReadAttempt : Obligations.BlockReadAttempt := by
  rintro s r hr rfl
  rw [exec_readimg_of_riBlk hr]
  refine ⟨fun hc => ⟨_, rfl, riBlk_cancelled hc⟩, fun hc hg => ?_, fun hc hb => ?_⟩
  · rw [riBlk_good hc rfl hg, accepted, hg.2]
    rfl
  · have ho : (blockStored s).latch.op = 0x05#8 := hr.code
    rw [riBlk_bad hc hb, logError_mismatch ho, blockStored_eq]
    rfl
end

section
/-! PROOFS. SEND (41_dispatcher R112 to R114): the length check, the frame of `TXBUF` and its checksum, the response. -/

namespace Sys2Proof.Machine

theorem exec_send_of_sdTx {s : State} (h : Running 0x02#8 .sdTx s) : exec .send s = .next (sdTx s) := by
  obtain ⟨hb, hf, ho, hq⟩ := h
  exact runOperation_runs hb hf ho _ (by rw [sendStep, hq])

theorem exec_send_of_sdRx {s : State} (h : Running 0x02#8 .sdRx s) : exec .send s = .next (sdRx s) := by
  obtain ⟨hb, hf, ho, hq⟩ := h
  exact runOperation_runs hb hf ho _ (by rw [sendStep, hq])

/-- The lengths R114 names end SEND before anything is written. -/
theorem sdTx_refused {s : State}
    (h : s.latch.txlen.toNat = 0 ∨ 16 < s.latch.txlen.toNat ∨ 16 < s.latch.resplen.toNat) :
    sdTx s = raise .invalidOperation 0#7 0#3 s := if_pos h

/-- With lengths that the check lets pass, SEND emits the first bytes of `TXBUF`. -/
theorem sdTx_of_lengths {s : State} {c : Byte} {args : List Byte} (h1 : 1 ≤ s.latch.txlen.toNat)
    (h16 : s.latch.txlen.toNat ≤ 16) (hm : s.latch.resplen.toNat ≤ 16)
    (hp : s.txbuf.take s.latch.txlen.toNat = c :: args) :
    sdTx s = emit c args (fun t => if s.latch.resplen = 0#8 then complete true t else goto .sdRx t) linkFatal s := by
  have accepted : ¬ (s.latch.txlen.toNat = 0 ∨ s.latch.txlen.toNat > Config.txBufBytes ∨
      s.latch.resplen.toNat > Config.rxBufBytes) := by
    rw [Config.txBufBytes, Config.rxBufBytes]
    omega
  have none_asked : s.latch.resplen.toNat = 0 ↔ s.latch.resplen = 0#8 := BitVec.toNat_inj (y := 0#8)
  rw [sdTx, if_neg accepted, hp]
  simp only [none_asked]

/-- What `Receive` leaves behind it, in words of the response (41_dispatcher R115). -/
theorem receive_eq_received (n : Nat) (s : State) : receive n s = received n (readLink n s) s := rfl

theorem sdRx_full {s : State} (h : (readLink s.latch.resplen.toNat s).length = s.latch.resplen.toNat) :
    sdRx s = complete true (receive s.latch.resplen.toNat s) := if_pos h

theorem sdRx_short {s : State} (h : (readLink s.latch.resplen.toNat s).length < s.latch.resplen.toNat) :
    sdRx s = raise .communicationTimeout 0#7 0#3 (receive s.latch.resplen.toNat s) := if_neg h.ne

end Sys2Proof.Machine

open Sys2Proof Sys2Proof.Machine

/-- Settles O19: the length check, then `Emit` of the payload, whose frame ends with the checksum of R100. -/
theorem sendWritesTheFrame : Obligations.SendWritesTheFrame := by
  intro s hr
  rw [exec_send_of_sdTx hr]
  refine ⟨fun hl h1 h16 hm => ?_, fun h => congrArg _ (sdTx_refused h)⟩
  obtain ⟨c, args, hp⟩ : ∃ c args, s.txbuf.take s.latch.txlen.toNat = c :: args :=
    List.exists_cons_of_length_pos (by rw [List.length_take]; omega)
  obtain ⟨k, hframe, hk⟩ := framed_cons c args
  rw [sdTx_of_lengths h1 h16 hm hp, hp]
  refine ⟨k, hk, ?_⟩
  rw [← hframe]
  refine ⟨fun hok => ?_, fun hno => ?_⟩
  · rw [emit_ok hok, emitted_eq_written, hok]
    rfl
  · rw [emit_fails hno, emitted_eq_written, hno, linkFatal_eq]

/-- Settles O20: the response is stored before its length is judged. -/
theorem sendResponse : Obligations.SendResponse := by
  rintro s r hr rfl
  rw [exec_send_of_sdRx hr, ← receive_eq_received]
  exact ⟨fun hfull => congrArg _ (sdRx_full hfull), fun hshort => congrArg _ (sdRx_short hshort)⟩
end

section
/-! PROOFS. SETBAUD (42_baud R120 to R127): each transition as an equation of `exec`, the common first part of the
handshake, and its two ends. -/

namespace Sys2Proof.Machine

-- The rate (42_baud R121, R122)

/-- The listed numbers of bits per second are those of the seven rates (00_scope R6). -/
theorem listed_iff (w : Word32) :
    w ∈ [9600#32, 19200#32, 38400#32, 57600#32, 115200#32, 230400#32, 460800#32] ↔ ∃ r, rateOf w = some r := by
  constructor
  · intro h
    simp only [List.mem_cons, List.not_mem_nil, or_false] at h
    rcases h with rfl | rfl | rfl | rfl | rfl | rfl | rfl <;> exact ⟨_, rfl⟩
  · rintro ⟨r, hr⟩
    rw [rateOf_eq_some hr]
    cases r <;> simp [rateBps]

/-- The table of the `B` frames (30_encoding R69, R71). -/
theorem encode_of_rate {r : Rate} {b : Instr}
    (h : (r, b) ∈ [(Rate.r9600, Instr.frameB0), (.r19200, .frameB1), (.r38400, .frameB2), (.r57600, .frameB3),
      (.r115200, .frameB4), (.r230400, .frameB5), (.r460800, .frameB6)]) : encode b = framed [0x42#8, rateDigit r] := by
  simp only [List.mem_cons, Prod.mk.injEq, List.not_mem_nil, or_false] at h
  rcases h with ⟨rfl, rfl⟩ | ⟨rfl, rfl⟩ | ⟨rfl, rfl⟩ | ⟨rfl, rfl⟩ | ⟨rfl, rfl⟩ | ⟨rfl, rfl⟩ | ⟨rfl, rfl⟩
  all_goals rfl

-- The states after the transitions that go on

/-- The rate is in the set, and the current one is saved (R121). -/
def rateSaved (s : State) : State := goto .bnCmd { s with baudPrev := s.baudCur }

/-- The `B` frame of `r` is written (R122). -/
def rateAsked (r : Rate) (s : State) : State := goto .bnRate (written (framed [0x42#8, rateDigit r]) true s)

/-- The local rate is `r` (R122). -/
def rateSwitched (r : Rate) (s : State) : State :=
  goto .bnAck { callDone (.setBaud r true) s with lineRate := some r, baudCur := r }

/-- The acknowledgement is read and dropped (R123). -/
def ackDropped (bytes : List Byte) (s : State) : State := goto .bnTest (callDone (.read 2 bytes) s)

/-- `"Test"` is written (R124). -/
def testWritten (s : State) : State := goto .bnReply (written [0x54#8, 0x65#8, 0x73#8, 0x74#8, 0x36#8] true s)

/-- The reply is good, and the confirmation is due (R124). -/
def replyAccepted (reply : List Byte) (s : State) : State := goto .bnConf (received 7 reply s)

/-- The reply is not good: a short one is logged (R124; 60_exceptions R211 item 6). -/
def replyRejected (reply : List Byte) (s : State) : State :=
  goto .bnRoll { received 7 reply s with
    log := s.log ++ (if reply.length < 7 then [⟨1#8, 0x03#8, s.lastCmd, 0#7, 0#3⟩] else [])
    esticky := if reply.length < 7 then stickySet .communicationTimeout s.esticky else s.esticky }

-- The transitions, as `exec` runs them

theorem exec_setbaud {s t : State} {q : Seq} (h : Running 0x03#8 q s) (ha : setbaudStep s = some t) :
    exec .setbaud s = .next t := runOperation_runs h.1 h.2.1 h.code _ ha

section
variable {s : State} {r : Rate}

theorem setbaud_check_rejects (h : Running 0x03#8 .bnCheck s) (hr : rateOf s.latch.rate = none) :
    exec .setbaud s = .next (raise .invalidBaudRate 0#7 0#3 s) :=
  exec_setbaud h (by rw [setbaudStep, h.place, bnCheck, hr])

theorem setbaud_check_accepts (h : Running 0x03#8 .bnCheck s) (hr : rateOf s.latch.rate = some r) :
    exec .setbaud s = .next (rateSaved s) :=
  exec_setbaud h (by rw [setbaudStep, h.place, bnCheck, hr, rateSaved])

theorem setbaud_cmd (h : Running 0x03#8 .bnCmd s) (hr : s.latch.rate = rateBps r) (hl : linkOk s = true) :
    exec .setbaud s = .next (rateAsked r s) := by
  refine exec_setbaud h ?_
  rw [setbaudStep, h.place, hr, rateOf_rateBps]
  exact congrArg some ((emit_ok hl ..).trans (by rw [emitted_eq_written, hl, rateAsked]))

/-- The switch of the local rate, taken or not. -/
theorem setbaud_rate (h : Running 0x03#8 .bnRate s) (hr : s.latch.rate = rateBps r) :
    exec .setbaud s = .next (bnRate r s) :=
  exec_setbaud h (by rw [setbaudStep, h.place, hr, rateOf_rateBps]; rfl)

theorem setbaud_rate_switched (h : Running 0x03#8 .bnRate s) (hr : s.latch.rate = rateBps r) (hl : linkOk s = true) :
    exec .setbaud s = .next (rateSwitched r s) := by
  rw [setbaud_rate h hr, bnRate, if_pos hl, afterSetBaud, hl]
  rfl

theorem setbaud_rate_fails (h : Running 0x03#8 .bnRate s) (hr : s.latch.rate = rateBps r) (hl : linkOk s = false) :
    exec .setbaud s = .next
      (raise .transportFatal 0#7 0#3 { callDone (.setBaud r false) s with lineRate := none }) := by
  rw [setbaud_rate h hr, bnRate, hl, if_neg Bool.false_ne_true, afterSetBaud, hl, baudFatal_eq]

theorem setbaud_ack (h : Running 0x03#8 .bnAck s) : exec .setbaud s = .next (ackDropped (readLink 2 s) s) :=
  exec_setbaud h (by rw [setbaudStep, h.place]; rfl)

theorem setbaud_test (h : Running 0x03#8 .bnTest s) (hl : linkOk s = true) :
    exec .setbaud s = .next (testWritten s) := by
  refine exec_setbaud h ?_
  rw [setbaudStep, h.place]
  exact congrArg some ((emit_ok hl ..).trans (by rw [emitted_eq_written, hl]; rfl))

/-- The reply is stored, then judged. -/
theorem setbaud_reply (h : Running 0x03#8 .bnReply s) : exec .setbaud s = .next (bnReply s) :=
  exec_setbaud h (by rw [setbaudStep, h.place])

theorem setbaud_conf (h : Running 0x03#8 .bnConf s) (hl : linkOk s = true) :
    exec .setbaud s = .next (complete true (written [0x6B#8, 0x14#8] true s)) := by
  refine exec_setbaud h ?_
  rw [setbaudStep, h.place]
  exact congrArg some ((emit_ok hl ..).trans (by rw [emitted_eq_written, hl]; rfl))

/-- The switch back to the previous rate, taken or not. -/
theorem setbaud_roll (h : Running 0x03#8 .bnRoll s) : exec .setbaud s = .next (bnRoll s) :=
  exec_setbaud h (by rw [setbaudStep, h.place])

theorem setbaud_roll_switched (h : Running 0x03#8 .bnRoll s) (hl : linkOk s = true) :
    exec .setbaud s = .next (raise .baudNegotiationFailed 0#7 0#3
      { callDone (.setBaud s.baudPrev true) s with lineRate := some s.baudPrev, baudCur := s.baudPrev }) := by
  rw [setbaud_roll h, bnRoll, if_pos hl, afterSetBaud, hl]
  rfl

theorem setbaud_roll_fails (h : Running 0x03#8 .bnRoll s) (hl : linkOk s = false) :
    exec .setbaud s = .next
      (raise .transportFatal 0#7 0#3 { callDone (.setBaud s.baudPrev false) s with lineRate := none }) := by
  rw [setbaud_roll h, bnRoll, hl, if_neg Bool.false_ne_true, afterSetBaud, hl, baudFatal_eq]

end

-- The judgement of the reply (42_baud R124)

theorem bnReply_good {s : State} (hl : (readLink 7 s).length = 7) (ht : (readLink 7 s).take 6 = testOk) :
    bnReply s = replyAccepted (readLink 7 s) s := if_pos ⟨hl, ht⟩

theorem bnReply_wrong {s : State} (hl : (readLink 7 s).length = 7) (ht : (readLink 7 s).take 6 ≠ testOk) :
    bnReply s = { received 7 (readLink 7 s) s with seq := .bnRoll } :=
  (if_neg fun h => ht h.2).trans (if_neg hl.not_lt)

theorem bnReply_short {s : State} (hl : (readLink 7 s).length < 7) :
    bnReply s = { logError .communicationTimeout 0#7 0#3 (received 7 (readLink 7 s) s) with seq := .bnRoll } :=
  (if_neg fun h => hl.ne h.1).trans (if_pos hl)

/-- The two ways in which a reply is not good, in one equation (R124). -/
theorem bnReply_rejects {s : State} (ho : s.latch.op = 0x03#8)
    (hb : (readLink 7 s).length = 7 → (readLink 7 s).take 6 ≠ testOk) : bnReply s = replyRejected (readLink 7 s) s := by
  rcases (readLink_length_le 7 s).lt_or_eq with hl | hl
  · rw [bnReply_short hl, replyRejected, if_pos hl, if_pos hl, ← ho]
    rfl
  · rw [bnReply_wrong hl (hb hl), replyRejected, if_neg hl.not_lt, if_neg hl.not_lt, List.append_nil]
    rfl

-- A step of SETBAUD

/-- With no host action waiting, SETBAUD's transition is the step, whether the state writes a frame or not. -/
theorem step_setbaud {s t : State} {q : Seq} (h : Running 0x03#8 q s) (hq : belongsTo q 0x03#8 = true)
    (hh : s.host = []) (hx : exec .setbaud s = .next t) : step s = .next t := by
  cases hp : seqPayload s with
  | none =>
    have hpop : popHost s = s := by rw [popHost, hh, List.tail_nil, ← hh]
    have word : seqWord s = encode .setbaud := by rw [seqWord, hp, h.code]; rfl
    rw [(step_of_word h.1 h.2.1 (.inl hh) rfl word).2, hpop, hx]
  | some p =>
    obtain ⟨i, hw, hd⟩ := exists_due h.1 h.2.1 (by rw [h.place, h.code]; exact hq) hp
    have own : exec i s = exec .setbaud s := frameIsItsOperationsTransition i .setbaud s hd (by rw [h.code]; rfl)
    exact step_due ⟨h.1, h.2.1⟩ hh hw hd (own.trans hx)

/-- A run goes on by a transition of SETBAUD. -/
theorem steps_setbaud {s t u : State} {k : Nat} {q : Seq} (hs : steps k s = .next t) (h : Running 0x03#8 q t)
    (hq : belongsTo q 0x03#8 = true) (hh : t.host = []) (hx : Running 0x03#8 q t → exec .setbaud t = .next u) :
    steps (k + 1) s = .next u := steps_trans hs (steps_succ (step_setbaud h hq hh (hx h)) 0)

/-- The `CMD` write of SETBAUD's code to an idle engine. -/
theorem step_setbaud_cmd {s : State} (hi : Idle s) (hh : s.host = [.writeReg 0 0x03#32]) (hw : s.wrote.rate = true) :
    step s = .next (start 0x03#8 .bnCheck (popHost s)) := by
  have hm : (0x03#8, Instr.setbaud, Seq.bnCheck) ∈ hostOps := by simp [hostOps]
  rw [step_of_cmd hm hi hh rfl, if_pos (by simp [operandsWritten, hw])]

/-- What a read returns of a scripted answer: no more than it asked for. -/
theorem readLink_take_of_cons {t : State} {y : Bool} {r : List Byte} {rest : List Answer}
    (h : t.answers = ⟨y, r⟩ :: rest) (n : Nat) : readLink n t = r.take n := by
  rw [readLink, nextAnswer_cons h]

-- The handshake up to the reply (42_baud R120 to R124)

/-- The Transport calls of the handshake before the reply: `B`n, the switch, the two bytes, `"Test"`. -/
def openingOfSetbaud (r : Rate) (ack : List Byte) : List LinkCall :=
  [.write (framed [0x42#8, rateDigit r]) true, .setBaud r true, .read 2 (ack.take 2),
    .write [0x54#8, 0x65#8, 0x73#8, 0x74#8, 0x36#8] true]

/-- SETBAUD, started in `s` with the rate `r`, waits for the reply to `"Test"`. -/
def replyAwaited (r : Rate) (ack : List Byte) (s : State) : State :=
  testWritten (ackDropped (ack.take 2) (rateSwitched r (rateAsked r (rateSaved (start 0x03#8 .bnCheck (popHost s))))))

theorem replyAwaited_traffic (r : Rate) (ack : List Byte) (s : State) :
    (replyAwaited r ack s).traffic = s.traffic ++ openingOfSetbaud r ack := by
  show (((s.traffic ++ [_]) ++ [_]) ++ [_]) ++ [_] = _
  simp only [openingOfSetbaud, List.append_assoc, List.cons_append, List.nil_append]

/-- The six steps from the `CMD` write to the reply. -/
theorem steps_replyAwaited {s : State} {r : Rate} {ack x1 x2 x3 : List Byte} {y1 : Bool} {answers : List Answer}
    (hi : Idle s) (hh : s.host = [.writeReg 0 0x03#32]) (hr : s.argRate = rateBps r) (hw : s.wrote.rate = true)
    (ha : s.answers = ⟨true, x1⟩ :: ⟨true, x2⟩ :: ⟨y1, ack⟩ :: ⟨true, x3⟩ :: answers) :
    steps 6 s = .next (replyAwaited r ack s) := by
  have host : (popHost s).host = [] := congrArg List.tail hh
  have listed : rateOf s.argRate = some r := by rw [hr, rateOf_rateBps]
  have started : steps 1 s = .next (start 0x03#8 .bnCheck (popHost s)) := steps_succ (step_setbaud_cmd hi hh hw) 0
  have atRate := congrArg List.tail ha
  have atAck := congrArg List.tail atRate
  have atTest := congrArg List.tail atAck
  have saved := steps_setbaud started ⟨rfl, hi.2, rfl, rfl⟩ rfl host (setbaud_check_accepts · listed)
  have asked := steps_setbaud saved ⟨rfl, hi.2, rfl, rfl⟩ rfl host (setbaud_cmd · hr (linkOk_of_cons ha))
  have switched := steps_setbaud asked ⟨rfl, hi.2, rfl, rfl⟩ rfl host (setbaud_rate_switched · hr (linkOk_of_cons atRate))
  have dropped := steps_setbaud switched ⟨rfl, hi.2, rfl, rfl⟩ rfl host setbaud_ack
  rw [readLink_take_of_cons atAck] at dropped
  exact steps_setbaud dropped ⟨rfl, hi.2, rfl, rfl⟩ rfl host (setbaud_test · (linkOk_of_cons atTest))

/-- The reply is the answer to the fifth call. -/
theorem replyAwaited_answers (r : Rate) {ack : List Byte} {s : State} {a1 a2 a3 a4 : Answer} {answers : List Answer}
    (ha : s.answers = a1 :: a2 :: a3 :: a4 :: answers) : (replyAwaited r ack s).answers = answers := by
  show s.answers.tail.tail.tail.tail = answers
  rw [ha]
  rfl

/-- The seventh step takes the reply and judges it. -/
theorem steps_replied {s : State} {r : Rate} {ack : List Byte} (hi : Idle s) (hh : s.host = [.writeReg 0 0x03#32])
    (h : steps 6 s = .next (replyAwaited r ack s)) : steps 7 s = .next (bnReply (replyAwaited r ack s)) :=
  steps_setbaud h ⟨rfl, hi.2, rfl, rfl⟩ rfl (congrArg List.tail hh) setbaud_reply

end Sys2Proof.Machine

open Sys2Proof Sys2Proof.Machine

/-- Settles O22: the listed rates are those that `rateOf` names. -/
theorem setbaudChecksTheRate : Obligations.SetbaudChecksTheRate := by
  intro s h
  rw [listed_iff]
  refine ⟨fun hn => setbaud_check_rejects h (Option.eq_none_iff_forall_ne_some.mpr fun r hr => hn ⟨r, hr⟩), ?_⟩
  rintro ⟨r, hr⟩
  exact setbaud_check_accepts h hr

/-- Settles O23, transition by transition. -/
theorem setbaudTransitions : Obligations.SetbaudTransitions := by
  intro s r hr
  refine ⟨fun h hl => ?_, fun h hl => setbaud_rate_switched h hr hl, fun h => setbaud_ack h,
    fun h hl => setbaud_test h hl, fun h hl => setbaud_conf h hl, fun h hl => setbaud_roll_switched h hl,
    fun h hl => setbaud_rate_fails h hr hl, fun h hl => setbaud_roll_fails h hl⟩
  rw [setbaud_cmd h hr hl]
  cases r <;> rfl

/-- Settles O24: a short reply, a good one, a wrong one. -/
theorem setbaudJudgesTheReply : Obligations.SetbaudJudgesTheReply := by
  rintro s r h rfl
  rw [setbaud_reply h]
  rcases (readLink_length_le 7 s).lt_or_eq with hl | hl
  · rw [bnReply_short hl, if_neg hl.ne]
  · rw [if_pos hl]
    by_cases ht : (readLink 7 s).take 6 = testOk
    · rw [bnReply_good hl ht]
      exact congrArg _ (if_pos ht).symm
    · rw [bnReply_wrong hl ht]
      exact congrArg _ (if_neg ht).symm

/-- Settles O25: the six steps to the reply, the good reply, and `k`. -/
theorem handshakeSucceeds : Obligations.HandshakeSucceeds := by
  intro s r b ack reply x1 x2 x3 x4 y1 y2 rest hi hh hr hw hb hl ht ha
  have atReply := replyAwaited_answers r (ack := ack) ha
  have atConf := congrArg List.tail atReply
  have read := readLink_of_cons atReply hl
  have replied := steps_replied hi hh (steps_replyAwaited hi hh hr hw ha)
  rw [bnReply_good (by rw [read, hl]) (by rw [read]; exact ht), read] at replied
  have confirmed := steps_setbaud replied ⟨rfl, hi.2, rfl, rfl⟩ rfl (congrArg List.tail hh)
    (setbaud_conf · (linkOk_of_cons atConf))
  refine ⟨_, confirmed, ?_, congrArg List.tail atConf, rfl, rfl, rfl, congrArg (Status.mk false true true) hi.2, rfl, rfl,
    rfl, rfl, congrArg (BitVec.ofNat 8) hl, rfl, rfl, rfl⟩
  show ((replyAwaited r ack s).traffic ++ [_]) ++ [_] = _
  rw [replyAwaited_traffic, encode_of_rate hb, List.append_assoc, List.append_assoc]
  rfl

/-- Settles O26: the six steps to the reply, the reply that is not good, and the switch back. -/
theorem handshakeRollsBack : Obligations.HandshakeRollsBack := by
  intro s r b ack reply x1 x2 x3 x4 y1 y2 rest hi hh hr hw hb hl hn ha
  have atReply := replyAwaited_answers r (ack := ack) ha
  have atRoll := congrArg List.tail atReply
  have read : readLink 7 (replyAwaited r ack s) = reply := by
    rw [readLink_take_of_cons atReply, List.take_of_length_le hl]
  have replied := steps_replied hi hh (steps_replyAwaited hi hh hr hw ha)
  rw [bnReply_rejects rfl (by rw [read]; exact hn), read] at replied
  have rolled := steps_setbaud replied ⟨rfl, hi.2, rfl, rfl⟩ rfl (congrArg List.tail hh)
    (setbaud_roll_switched · (linkOk_of_cons atRoll))
  refine ⟨_, rolled, ?_, congrArg List.tail atRoll, rfl, rfl, rfl, congrArg (Status.mk false true false) hi.2, rfl, rfl,
    rfl, rfl, rfl, rfl⟩
  show ((replyAwaited r ack s).traffic ++ [_]) ++ [_] = _
  rw [replyAwaited_traffic, encode_of_rate hb, List.append_assoc, List.append_assoc]
  rfl
end

section
/-! PROOFS. STARTEXP (43_exposure R132 to R135): the exposure frame, the four ends of one poll, and a run of polls that
bring no `D`. -/

namespace Sys2Proof.Machine

theorem exec_startexp {s t : State} {q : Seq} (h : Running 0x04#8 q s) (ha : startexpStep s = some t) :
    exec .startexp s = .next t := runOperation_runs h.1 h.2.1 h.code _ ha

/-- With no host action waiting, a transition that writes no frame is the step of the operation that runs. -/
theorem step_own {s t : State} {op : Byte} {i : Instr} {first q : Seq} (hm : (op, i, first) ∈ hostOps)
    (h : Running op q s) (hh : s.host = []) (hp : seqPayload s = none) (hx : exec i s = .next t) :
    step s = .next t := by
  have hpop : popHost s = s := by rw [popHost, hh, List.tail_nil, ← hh]
  obtain ⟨-, code, formed⟩ := hostOps_codes _ hm
  have word : seqWord s = encode i := by rw [seqWord, hp, code, h.code]
  rw [(step_of_word h.1 h.2.1 (.inl hh) formed word).2, hpop, hx]

-- The exposure frame (43_exposure R132)

theorem exTx_written {s : State} (hl : linkOk s = true) :
    exTx s = goto .exWait (written (framed (0x54#8 :: exposureArgs s.latch)) true { s with polls := 0#32 }) := by
  have hl : linkOk { s with polls := 0#32 } = true := hl
  rw [exTx, emit_ok hl, emitted_eq_written, hl]

-- One poll (43_exposure R133)

/-- A poll has read `r` and counts. -/
def polled (r : List Byte) (s : State) : State := { callDone (.read 1 r) s with polls := s.polls + 1#32 }

section
variable {s : State}

theorem exec_startexp_of_exWait (h : Running 0x04#8 .exWait s) : exec .startexp s = .next (exWait s) :=
  exec_startexp h (by rw [startexpStep, h.place])

theorem exWait_cancelled (hc : s.cancel = true) : exWait s = raise .cancelled 0#7 0#3 s := if_pos hc

theorem exWait_exhausted (hc : ¬ s.cancel = true) (hb : s.latch.readyMax.toNat ≤ s.polls.toNat) :
    exWait s = raise .exposureTimedOut 0#7 0#3 s :=
  (if_neg hc).trans (if_pos (BitVec.le_def.2 hb))

theorem exWait_reads (hc : ¬ s.cancel = true) (hb : ¬ s.latch.readyMax.toNat ≤ s.polls.toNat) :
    exWait s = if readLink 1 s = [0x44#8] then complete true (polled (readLink 1 s) s)
      else goto .exWait (polled (readLink 1 s) s) :=
  (if_neg hc).trans (if_neg (mt BitVec.le_def.1 hb))

/-- With no host action waiting, a poll is the step. -/
theorem step_poll (h : Running 0x04#8 .exWait s) (hh : s.host = []) : step s = .next (exWait s) :=
  step_own (first := .exTx) (by simp [hostOps]) h hh (by rw [seqPayload, h.place]) (exec_startexp_of_exWait h)

end

-- A run of polls (43_exposure R134, R135)

/-- The polls of `s` that read `noise` have come and gone, `answers` are left: nothing but the count, the answers and
the traffic tells. -/
def noiseDropped (noise : List (List Byte)) (answers : List Answer) (s : State) : State :=
  { s with
    polls := s.polls + BitVec.ofNat 32 noise.length
    answers := answers
    traffic := s.traffic ++ noise.map (fun r => .read 1 (r.take 1)) }

theorem noiseDropped_nil (s : State) : noiseDropped [] s.answers s = s := by
  simp [noiseDropped]

theorem noiseDropped_cons (r : List Byte) (noise : List (List Byte)) (answers answers' : List Answer) (s : State) :
    noiseDropped noise answers (noiseDropped [r] answers' s) = noiseDropped (r :: noise) answers s := by
  have count : s.polls + 1#32 + BitVec.ofNat 32 noise.length = s.polls + BitVec.ofNat 32 (noise.length + 1) := by
    rw [BitVec.add_assoc, ← BitVec.ofNat_add, Nat.add_comm]
  simp [noiseDropped, count]

theorem noiseDropped_polls {noise : List (List Byte)} {s : State} (hb : s.polls.toNat + noise.length < 2 ^ 32)
    (answers : List Answer) : (noiseDropped noise answers s).polls.toNat = s.polls.toNat + noise.length := by
  rw [noiseDropped, BitVec.toNat_add_of_lt] <;> rw [BitVec.toNat_ofNat, Nat.mod_eq_of_lt (by omega)]
  exact hb

theorem noiseDropped_running {op : Byte} {q : Seq} {s : State} (h : Running op q s) (noise : List (List Byte))
    (answers : List Answer) : Running op q (noiseDropped noise answers s) := h

/-- A poll within the bound that brings no `D` leaves the loop where it is. -/
theorem step_noise {s : State} {r : List Byte} {answers : List Answer} (h : Running 0x04#8 .exWait s)
    (hh : s.host = []) (hc : s.cancel = false) (hb : s.polls.toNat < s.latch.readyMax.toNat)
    (hr : r.take 1 ≠ [0x44#8]) (ha : s.answers = ⟨true, r⟩ :: answers) : step s = .next (noiseDropped [r] answers s) := by
  have read := readLink_take_of_cons ha 1
  rw [step_poll h hh, exWait_reads (by simp [hc]) hb.not_ge, read, if_neg hr, goto, polled, callDone, ha, ← h.place]
  rfl

/-- Polls within the bound that bring no `D`, however many, leave the loop where it is. -/
theorem steps_noise {s : State} {noise : List (List Byte)} {answers : List Answer} (h : Running 0x04#8 .exWait s)
    (hh : s.host = []) (hc : s.cancel = false) (hb : s.polls.toNat + noise.length ≤ s.latch.readyMax.toNat)
    (hn : ∀ r ∈ noise, r.take 1 ≠ [0x44#8]) (ha : s.answers = noise.map (fun r => ⟨true, r⟩) ++ answers) :
    steps noise.length s = .next (noiseDropped noise answers s) := by
  induction noise generalizing s with
  | nil =>
    subst ha
    exact congrArg _ (noiseDropped_nil s).symm
  | cons r noise ih =>
    obtain ⟨hr, hn⟩ := List.forall_mem_cons.1 hn
    rw [List.length_cons] at hb
    rw [List.map_cons, List.cons_append] at ha
    have within : s.polls.toNat + 1 + noise.length ≤ s.latch.readyMax.toNat := by omega
    rw [List.length_cons, steps_succ (step_noise h hh hc (by omega) hr ha), ← noiseDropped_cons r noise answers _ s]
    refine ih (noiseDropped_running h _ _) hh hc ?_ hn rfl
    rw [noiseDropped_polls (by rw [List.length_singleton]; omega)]
    exact within

/-- After such polls comes one more, whatever it does. -/
theorem steps_noise_poll {s : State} {noise : List (List Byte)} {answers : List Answer} (h : Running 0x04#8 .exWait s)
    (hh : s.host = []) (hc : s.cancel = false) (hb : s.polls.toNat + noise.length ≤ s.latch.readyMax.toNat)
    (hn : ∀ r ∈ noise, r.take 1 ≠ [0x44#8]) (ha : s.answers = noise.map (fun r => ⟨true, r⟩) ++ answers) :
    steps (noise.length + 1) s = .next (exWait (noiseDropped noise answers s)) :=
  steps_trans (steps_noise h hh hc hb hn ha) (steps_succ (step_poll (noiseDropped_running h noise answers) hh) 0)

end Sys2Proof.Machine

open Sys2Proof Sys2Proof.Machine

/-- Settles O28: the four branches of a poll, in their order. -/
theorem readyPollOrder : Obligations.ReadyPollOrder := by
  rintro s _ h rfl
  rw [exec_startexp_of_exWait h]
  split_ifs with hc hb hr
  · rw [exWait_cancelled hc]
  · rw [exWait_exhausted hc hb]
  · rw [exWait_reads hc hb, if_pos hr, polled]
  · rw [exWait_reads hc hb, if_neg hr]
    rfl

/-- Settles O27: `Emit` of `T` and the latched operands, whose frame ends with the checksum of R100. -/
theorem startexpWritesTheExposureFrame : Obligations.StartexpWritesTheExposureFrame := by
  intro s h hl
  obtain ⟨k, hframe, hk⟩ := framed_cons 0x54#8 (exposureArgs s.latch)
  refine ⟨k, hk, ?_⟩
  rw [exec_startexp h (by rw [startexpStep, h.place]), exTx_written hl, hframe]
  rfl

/-- Settles O29: the polls that bring no `D` use up the bound, and the next poll finds it used up. -/
theorem readyWaitTimesOut : Obligations.ReadyWaitTimesOut := by
  intro s replies rest h hh hc hb hn ha
  have run := steps_noise_poll h hh hc hb.le hn ha
  have count : (noiseDropped replies rest s).polls = s.latch.readyMax :=
    BitVec.eq_of_toNat_eq ((noiseDropped_polls (by omega) rest).trans hb)
  rw [exWait_exhausted (by simp [noiseDropped, hc]) (by rw [count]; rfl)] at run
  refine ⟨_, run, count, rfl, congrArg (Status.mk false true false) h.2.1, rfl, rfl, rfl, ?_, rfl, rfl⟩
  rw [← h.code]
  rfl

/-- Settles O30: the polls that bring no `D` leave the bound unreached, and the next poll reads the `D`. -/
theorem readyWaitEndsAtD : Obligations.ReadyWaitEndsAtD := by
  intro s noise d rest h hh hc hb hn hd ha
  have run := steps_noise_poll h hh hc hb.le hn ha
  have count := noiseDropped_polls (noise := noise) (s := s) (by omega) (⟨true, d⟩ :: rest)
  have read : readLink 1 (noiseDropped noise (⟨true, d⟩ :: rest) s) = [0x44#8] :=
    (readLink_take_of_cons rfl 1).trans hd
  rw [exWait_reads (by simp [noiseDropped, hc]) (by rw [count]; exact hb.not_ge), read, if_pos rfl] at run
  refine ⟨_, run, ?_, rfl, congrArg (Status.mk false true true) h.2.1, rfl, rfl, rfl, rfl, rfl, rfl, rfl⟩
  rw [← count]
  exact BitVec.toNat_add_of_lt (y := 1#32) (by rw [count, BitVec.toNat_ofNat]; omega)
end

section
/-! PROOFS. READIMG (44_transfer R141 to R151): its transitions as `exec` runs them, what becomes of a block's bytes,
and the run of reads of one block that mismatch, each with the frame that answers it. -/

namespace Sys2Proof.Machine

theorem exec_readimg {s t : State} {q : Seq} (h : Running 0x05#8 q s) (ha : readimgStep s = some t) :
    exec .readimg s = .next t := runOperation_runs h.1 h.2.1 h.code _ ha

/-- Where READIMG writes a frame that the Transport takes, its transition is that frame's (30_encoding R71). -/
theorem exec_readimg_of_due {i : Instr} {s : State} (hd : due i s) (ho : s.latch.op = 0x05#8) (hl : linkOk s = true) :
    exec .readimg s = .next (writeSuccess s.latch.op s.seq (written (encode i) true (writePrepared s.seq s))) := by
  have own : exec i s = exec .readimg s := frameIsItsOperationsTransition i .readimg s hd (by rw [ho]; rfl)
  rw [← own, exec_due_taken hd hl]

-- The sync byte and the epilogue (44_transfer R142, R149)

theorem riSync_read {s : State} (hl : (readLink 1 s).length = 1) :
    riSync s = goto .riBlk { afterRead 1 s with nblk := blockCount s.latch.crop, blk := 0#7, att := 0#3 } :=
  if_neg (by omega)

theorem riSync_short {s : State} (hr : readLink 1 s = []) :
    riSync s = raise .communicationTimeout 0#7 0#3 (afterRead 1 s) :=
  if_pos (by rw [hr]; exact Nat.one_pos)

theorem riEpi_read {s : State} (hl : (readLink 5 s).length = 5) : riEpi s = goto .riDec (afterRead 5 s) :=
  if_neg (by omega)

theorem riEpi_short {s : State} (hl : (readLink 5 s).length < 5) :
    riEpi s = raise .communicationTimeout s.nblk 0#3 (afterRead 5 s) := if_pos hl

-- What becomes of a block's bytes (44_transfer R144, R147)

/-- A good read leaves its payload in the block. -/
theorem rawByte_accepted {r : List Byte} (hl : r.length = 8193) (s : State) (a : Nat) :
    rawByte a (accepted r s) =
      if 8192 * s.blk.toNat ≤ a ∧ a < 8192 * s.blk.toNat + 8192 then r.getD (a - 8192 * s.blk.toNat) 0#8
      else rawByte a s := by
  have size : (r.take 8192).length = 8192 := by rw [List.length_take, hl]; rfl
  refine (rawByte_storeBlock size (callDone (.read 8193 r) { s with lrcAcc := 0#8 }) a).trans ?_
  refine ite_congr rfl (fun ha => ?_) (fun _ => rfl)
  have inside : a - 8192 * s.blk.toNat < 8192 := by obtain ⟨h1, h2⟩ := ha; omega
  change (r.take 8192).getD (a - 8192 * s.blk.toNat) 0#8 = _
  rw [List.getD, List.getElem?_take_of_lt inside, List.getD]

/-- The substitute of a block is zero bytes, and the rest of `RAW` stays. -/
theorem rawByte_substitute (s : State) (a : Nat) :
    rawByte a (substitute s) =
      if 8192 * s.blk.toNat ≤ a ∧ a < 8192 * s.blk.toNat + 8192 then 0#8 else rawByte a s := by
  refine (rawByte_storeBlock (List.length_replicate (n := 8192)) s a).trans (ite_congr rfl (fun ha => ?_) fun _ => rfl)
  have inside : a - 8192 * s.blk.toNat < 8192 := by obtain ⟨h1, h2⟩ := ha; omega
  exact List.getD_replicate _ inside

/-- Giving up a block after its `S` is written is its substitution, as far as `RAW` goes. -/
theorem rawByte_aborted (op : Byte) (frame : List Byte) (s : State) (a : Nat) :
    rawByte a (writeSuccess op .riAbort (written frame true s)) =
      if 8192 * s.blk.toNat ≤ a ∧ a < 8192 * s.blk.toNat + 8192 then 0#8 else rawByte a s :=
  rawByte_substitute (logError .blockTransferAborted s.blk s.att (written frame true s)) a

-- A block whose reads mismatch (44_transfer R144, R146, R147, R151)

/-- What read attempts of the block `BLK` of `s` leave alone, as long as it is neither accepted nor given up. -/
structure SameBlock (s t : State) : Prop where
  status : t.status = s.status
  latch : t.latch = s.latch
  cancel : t.cancel = s.cancel
  host : t.host = s.host
  err : t.err = s.err
  blk : t.blk = s.blk
  nblk : t.nblk = s.nblk
  substCnt : t.substCnt = s.substCnt
  substMap : t.substMap = s.substMap
  img : t.img = s.img
  outside : ∀ a, ¬ (8192 * s.blk.toNat ≤ a ∧ a < 8192 * s.blk.toNat + 8192) → rawByte a t = rawByte a s

/-- The reads `bad` of the block `BLK` of `s` have mismatched, each was answered by `R`, and the next read is due;
`answers` are left. -/
structure Retried (s : State) (bad : List (List Byte)) (answers : List Answer) (t : State) : Prop where
  same : SameBlock s t
  seq : t.seq = .riBlk
  att : t.att = BitVec.ofNat 3 bad.length
  lastCmd : t.lastCmd = if bad.length = 0 then s.lastCmd else 0x52#8
  log : t.log = s.log ++ mismatchRecords s.lastCmd s.blk bad.length
  traffic : t.traffic = s.traffic ++ attemptCalls bad [0x52#8, 0x2D#8]
  answers : t.answers = answers

/-- After the reads `bad` the read `r` has mismatched too, and the frame that answers it is due. -/
structure Mismatched (s : State) (bad : List (List Byte)) (r : List Byte) (answers : List Answer) (t : State) :
    Prop where
  same : SameBlock s t
  att : t.att = BitVec.ofNat 3 bad.length
  log : t.log = s.log ++ mismatchRecords s.lastCmd s.blk (bad.length + 1)
  traffic : t.traffic = s.traffic ++ attemptCalls bad [0x52#8, 0x2D#8] ++ [.read 8193 r]
  answers : t.answers = ⟨true, []⟩ :: answers

theorem mismatchRecords_succ (c : Byte) (blk : BitVec 7) (n : Nat) :
    mismatchRecords c blk (n + 1) =
      mismatchRecords c blk n ++ [⟨2#8, 0x05#8, if n = 0 then c else 0x52#8, blk, BitVec.ofNat 3 n⟩] := by
  rw [mismatchRecords, List.range_succ, List.map_append]
  rfl

theorem attemptCalls_append (rs qs : List (List Byte)) (frame : List Byte) :
    attemptCalls (rs ++ qs) frame = attemptCalls rs frame ++ attemptCalls qs frame := List.flatMap_append

theorem attemptAnswers_append (rs qs : List (List Byte)) :
    attemptAnswers (rs ++ qs) = attemptAnswers rs ++ attemptAnswers qs := List.flatMap_append

theorem SameBlock.refl (s : State) : SameBlock s s := ⟨rfl, rfl, rfl, rfl, rfl, rfl, rfl, rfl, rfl, rfl, fun _ _ => rfl⟩

theorem SameBlock.trans {s t u : State} (h : SameBlock s t) (k : SameBlock t u) : SameBlock s u where
  status := k.status.trans h.status
  latch := k.latch.trans h.latch
  cancel := k.cancel.trans h.cancel
  host := k.host.trans h.host
  err := k.err.trans h.err
  blk := k.blk.trans h.blk
  nblk := k.nblk.trans h.nblk
  substCnt := k.substCnt.trans h.substCnt
  substMap := k.substMap.trans h.substMap
  img := k.img.trans h.img
  outside a ha := (k.outside a (by rwa [h.blk])).trans (h.outside a ha)

theorem SameBlock.running {s t : State} (h : SameBlock s t) (hs : Running 0x05#8 .riBlk s) (q : Seq) :
    Running 0x05#8 q (goto q t) := by
  rw [Running, goto_status, goto_latch, h.status, h.latch]
  exact ⟨hs.1, hs.2.1, hs.code, rfl⟩

/-- A full read touches no byte outside its block. -/
theorem sameBlock_blockStored {s : State} (hl : (readLink 8193 s).length = 8193) : SameBlock s (blockStored s) := by
  have size : ((readLink 8193 s).take 8192).length = 8192 := by rw [List.length_take, hl]; rfl
  have outside : ∀ a, ¬ (8192 * s.blk.toNat ≤ a ∧ a < 8192 * s.blk.toNat + 8192) →
      rawByte a (blockStored s) = rawByte a s := fun a ha =>
    (rawByte_storeBlock size (afterRead 8193 { s with lrcAcc := 0#8 }) a).trans (if_neg ha)
  rw [blockStored_eq] at outside ⊢
  exact ⟨rfl, rfl, rfl, rfl, rfl, rfl, rfl, rfl, rfl, rfl, outside⟩

/-- A full read writes no record and sends no frame. -/
theorem blockStored_records (s : State) :
    (blockStored s).log = s.log ∧ (blockStored s).lastCmd = s.lastCmd ∧ (blockStored s).att = s.att ∧
      (blockStored s).answers = s.answers.tail ∧
      (blockStored s).traffic = s.traffic ++ [.read 8193 (readLink 8193 s)] := by
  rw [blockStored_eq]
  exact ⟨rfl, rfl, rfl, rfl, rfl⟩

theorem sameBlock_logError (e : ErrKind) (blk : BitVec 7) (att : BitVec 3) (s : State) :
    SameBlock s (logError e blk att s) := ⟨rfl, rfl, rfl, rfl, rfl, rfl, rfl, rfl, rfl, rfl, fun _ _ => rfl⟩

section
variable {s t : State} {bad : List (List Byte)} {r : List Byte} {answers : List Answer}

/-- Before the first read of a block nothing has happened to it. -/
theorem retried_nil (h : Running 0x05#8 .riBlk s) (ha : s.att = 0#3) : Retried s [] s.answers s where
  same := .refl s
  seq := h.place
  att := ha
  lastCmd := rfl
  log := (List.append_nil _).symm
  traffic := (List.append_nil _).symm
  answers := rfl

/-- The attempts are counted from 0 (R144). -/
theorem Retried.att_toNat (h : Retried s bad answers t) (hn : bad.length ≤ 5) : t.att.toNat = bad.length := by
  rw [h.att, BitVec.toNat_ofNat, Nat.mod_eq_of_lt (by omega)]

theorem Retried.running (h : Retried s bad answers t) (hs : Running 0x05#8 .riBlk s) : Running 0x05#8 .riBlk t := by
  obtain ⟨hb, hf, ho, -⟩ := h.same.running hs .riBlk
  exact ⟨hb, hf, ho, h.seq⟩

/-- One more read that mismatches: its bytes are stored, and it is one more record, with the number of the attempt
and the command byte before it (R144). -/
theorem Retried.mismatched (h : Retried s bad (⟨true, r⟩ :: ⟨true, []⟩ :: answers) t) (ho : s.latch.op = 0x05#8)
    (hl : r.length = 8193) :
    Mismatched s bad r answers (logError .checksumMismatch t.blk t.att (blockStored t)) := by
  have read : readLink 8193 t = r := readLink_of_cons h.answers hl
  have stored := sameBlock_blockStored (s := t) (by rw [read, hl])
  obtain ⟨log, lastCmd, att, answers, traffic⟩ := blockStored_records t
  refine ⟨h.same.trans (stored.trans (sameBlock_logError ..)), ?_, ?_, ?_, ?_⟩
  · rw [logError_att, att, h.att]
  · rw [logError_log, log, h.log, stored.latch, h.same.latch, ho, lastCmd, h.lastCmd, h.same.blk, h.att,
      mismatchRecords_succ, List.append_assoc]
    rfl
  · rw [logError_traffic, traffic, h.traffic, read]
  · rw [logError_answers, answers, h.answers, List.tail_cons]

/-- One more read that mismatches, and the frame that answers it: two steps. -/
theorem Retried.steps_answered {i : Instr} {q : Seq} (h : Retried s bad (⟨true, r⟩ :: ⟨true, []⟩ :: answers) t)
    (hs : Running 0x05#8 .riBlk s) (hh : s.host = []) (hc : s.cancel = false) (hb : badRead r) (hn : bad.length ≤ 5)
    (hq : (if bad.length < 5 then .riRetry else .riAbort) = q) (hw : i.wellFormed = true)
    (hd : ∀ u, Running 0x05#8 q u → due i u) :
    ∃ u, Mismatched s bad r answers u ∧
      steps 2 t = .next (writeSuccess 0x05#8 q (written (encode i) true (writePrepared q (goto q u)))) := by
  have mism := h.mismatched hs.code hb.1
  refine ⟨_, mism, ?_⟩
  have judged := riBlk_bad (h.same.cancel.trans hc) (by rwa [readLink_of_cons h.answers hb.1])
  rw [h.att_toNat hn, hq] at judged
  generalize logError .checksumMismatch t.blk t.att (blockStored t) = u at mism judged ⊢
  have read : step t = .next (goto q u) :=
    step_readimg_own (h.running hs) (h.same.host.trans hh) (by rw [seqPayload, h.seq])
      (by rw [readimgStep, h.seq, judged])
  have run := mism.same.running hs q
  have taken : linkOk (goto q u) = true := linkOk_of_cons (t := goto q u) mism.answers
  refine steps_two read (step_due ⟨run.1, run.2.1⟩ (mism.same.host.trans hh) hw (hd _ run) ?_)
  rw [exec_due_taken (hd _ run) taken, run.code, run.place]

/-- After the `R` the next read of the same block is due (R146). -/
theorem Mismatched.retried (h : Mismatched s bad r answers t) :
    Retried s (bad ++ [r]) answers
      (writeSuccess 0x05#8 .riRetry (written [0x52#8, 0x2D#8] true (goto .riRetry t))) := by
  have frame : SameBlock t (writeSuccess 0x05#8 .riRetry (written [0x52#8, 0x2D#8] true (goto .riRetry t))) :=
    ⟨rfl, rfl, rfl, rfl, rfl, rfl, rfl, rfl, rfl, rfl, fun _ _ => rfl⟩
  refine ⟨h.same.trans frame, rfl, ?_, ?_, ?_, ?_, congrArg List.tail h.answers⟩
  · show t.att + 1#3 = _
    rw [h.att, ← BitVec.ofNat_add, List.length_append, List.length_singleton]
  · rw [if_neg (by simp)]
    rfl
  · rw [List.length_append, List.length_singleton]
    exact h.log
  · show t.traffic ++ [_] = _
    rw [h.traffic, attemptCalls_append, List.append_assoc, List.append_assoc]
    rfl

/-- At most five reads in a row that mismatch, each with its `R`; the last of them is added at the end, where its record
tells its number (R144, R146). -/
theorem steps_retried (hs : Running 0x05#8 .riBlk s) (h0 : s.att = 0#3) (hh : s.host = []) (hc : s.cancel = false)
    (hn : bad.length ≤ 5) (hb : ∀ r ∈ bad, badRead r) (ha : s.answers = attemptAnswers bad ++ answers) :
    ∃ t, steps (2 * bad.length) s = .next t ∧ Retried s bad answers t := by
  induction bad using List.reverseRecOn generalizing answers with
  | nil =>
    obtain rfl : s.answers = answers := ha
    exact ⟨s, rfl, retried_nil hs h0⟩
  | append_singleton bad r ih =>
    rw [List.length_append, List.length_singleton] at hn ⊢
    rw [attemptAnswers_append, List.append_assoc] at ha
    obtain ⟨t, run, h⟩ := ih (by omega) (fun x hx => hb x (by simp [hx])) ha
    obtain ⟨u, mism, retry⟩ := h.steps_answered (i := .frameR) hs hh hc (hb r (by simp)) (by omega)
      (if_pos (by omega)) rfl fun _ due => due
    exact ⟨_, steps_trans run retry, mism.retried⟩

/-- A good read after them, and its `K`: two steps (R144, R145). -/
theorem Retried.steps_accepted (h : Retried s bad (⟨true, r⟩ :: ⟨true, []⟩ :: answers) t) (hs : Running 0x05#8 .riBlk s)
    (hh : s.host = []) (hc : s.cancel = false) (hg : goodRead r) :
    steps 2 t = .next (nextBlock (written [0x4B#8, 0x34#8] true (accepted r t))) := by
  have good := riBlk_good (h.same.cancel.trans hc) (readLink_of_cons h.answers hg.1) hg
  have run := h.running hs
  have host := h.same.host.trans hh
  have read : step t = .next (accepted r t) :=
    step_readimg_own run host (by rw [seqPayload, h.seq]) (by rw [readimgStep, h.seq, good])
  have taken : linkOk (accepted r t) = true := linkOk_of_cons (congrArg List.tail h.answers)
  have ack : Running 0x05#8 .riAck (accepted r t) := ⟨run.1, run.2.1, run.code, rfl⟩
  have ready : due .frameK (accepted r t) := .inr ack
  exact steps_two read (step_due ⟨ack.1, ack.2.1⟩ host rfl ready ((exec_due_taken ready taken).trans rfl))

end

end Sys2Proof.Machine

open Sys2Proof Sys2Proof.Machine

/-- Settles O31: `X`, then the sync byte or none. -/
theorem readimgBegins : Obligations.ReadimgBegins := by
  refine fun s => ⟨fun h hl => ?_, fun h hl => ?_, fun h hr => ?_⟩
  · rw [exec_readimg_of_due (i := .frameX) h h.code hl, h.place]
    rfl
  · rw [exec_readimg h (by rw [readimgStep, h.place]), riSync_read hl]
    rfl
  · rw [exec_readimg h (by rw [readimgStep, h.place]), riSync_short hr, afterRead, hr]

/-- Settles O34: both frames as READIMG's own transitions. -/
theorem blockIsAcknowledgedOrRetried : Obligations.BlockIsAcknowledgedOrRetried := by
  refine fun s hl => ⟨fun h => ?_, fun h => ?_⟩
  · rw [exec_readimg_of_due (i := .frameK) (.inr h) h.code hl, h.place]
    rfl
  · rw [exec_readimg_of_due (i := .frameR) h h.code hl, h.place]
    rfl

/-- Settles O35: `S` as READIMG's own transition, with zeros stored in the block. -/
theorem abortedBlockIsSubstituted : Obligations.AbortedBlockIsSubstituted := by
  intro s h hl
  have taken := exec_readimg_of_due (i := .frameS) h h.code hl
  rw [h.place] at taken
  have code : (written [0x53#8, 0x2C#8] true s).latch.op = 0x05#8 := h.code
  refine ⟨_, taken, rawByte_aborted _ _ s, (writeSuccess_riAbort _ (written [0x53#8, 0x2C#8] true s)).trans ?_⟩
  rw [code]
  rfl

/-- Settles O36: the epilogue by its length, then DECODE's work. -/
theorem readimgEnds : Obligations.ReadimgEnds := by
  rintro s _ rfl
  refine ⟨fun h hl => ?_, fun h hl => ?_, fun h => ?_⟩
  · rw [exec_readimg h (by rw [readimgStep, h.place]), riEpi_read hl]
    rfl
  · rw [exec_readimg h (by rw [readimgStep, h.place]), riEpi_short hl]
    rfl
  · exact exec_readimg h (by rw [readimgStep, h.place]; rfl)

/-- Settles O37: five reads with their `R`, the sixth with its `S`. -/
theorem sixMismatchesSubstituteTheBlock : Obligations.SixMismatchesSubstituteTheBlock := by
  intro s replies rest hs h0 hc hh hn hb ha
  have last : replies ≠ [] := List.ne_nil_of_length_pos (by omega)
  obtain ⟨bad, r, rfl⟩ : ∃ bad r, replies = bad ++ [r] := ⟨_, _, (List.dropLast_append_getLast last).symm⟩
  have five : bad.length = 5 := by simpa using hn
  rw [attemptAnswers_append, List.append_assoc] at ha
  obtain ⟨t, run, h⟩ := steps_retried hs h0 hh hc five.le (fun x hx => hb x (by simp [hx])) ha
  obtain ⟨u, mism, abort⟩ := h.steps_answered (i := .frameS) hs hh hc (hb r (by simp)) five.le
    (if_neg five.not_lt) rfl fun _ due => due
  have steps12 := steps_trans run abort
  rw [five] at steps12
  have same := mism.same
  refine ⟨_, steps12, ?_, ?_, fun a => ?_, ?_, ?_, ?_, rfl, ?_, same.status, same.err, congrArg List.tail mism.answers,
    same.img⟩
  · show u.traffic ++ [_] = _
    rw [mism.traffic, List.take_left' five, List.drop_left' five, List.append_assoc]
    rfl
  · show u.log ++ [⟨3#8, u.latch.op, 0x53#8, u.blk, u.att⟩] = _
    rw [mism.log, five, same.latch, hs.code, same.blk, mism.att, five]
  · refine (rawByte_aborted 0x05#8 [0x53#8, 0x2C#8] (goto .riAbort u) a).trans ?_
    rw [goto_blk, same.blk]
    exact ite_congr rfl (fun _ => rfl) (same.outside a)
  · exact congrArg (· + 1#7) same.substCnt
  · show u.substMap ||| (1#75 <<< u.blk.toNat) = _
    rw [same.substMap, same.blk]
  · exact congrArg (· + 1#7) same.blk
  · show (if u.blk + 1#7 = u.nblk then Seq.riEpi else .riBlk) = _
    rw [same.blk, same.nblk]

/-- Settles O38: the reads that mismatch with their `R`, then the good one with its `K`. -/
theorem matchingReadIsAccepted : Obligations.MatchingReadIsAccepted := by
  intro s bad good rest hs h0 hc hh hn hb hg ha
  rw [attemptAnswers_append, List.append_assoc] at ha
  obtain ⟨t, run, h⟩ := steps_retried hs h0 hh hc hn hb ha
  have same := h.same
  refine ⟨_, steps_trans run (h.steps_accepted hs hh hc hg), ?_, h.log, fun a => ?_, same.substCnt, same.substMap, ?_,
    rfl, ?_, same.status, same.err, congrArg (fun l => l.tail.tail) h.answers, same.img⟩
  · show (t.traffic ++ [_]) ++ [_] = _
    rw [h.traffic, List.append_assoc]
    rfl
  · refine (rawByte_accepted hg.1 t a).trans ?_
    rw [same.blk]
    exact ite_congr rfl (fun _ => rfl) (same.outside a)
  · exact congrArg (· + 1#7) same.blk
  · show (if t.blk + 1#7 = t.nblk then Seq.riEpi else .riBlk) = _
    rw [same.blk, same.nblk]
end

section
/-! PROOFS. The de-interleaver and DECODE (45_decoder R161 to R167): a sample as a number in both byte orders, the
decoded image by the bytes of its stream, and DECODE's one transition. -/

namespace Sys2Proof.Machine

/-- A word of two bytes as a number, the high byte first. -/
theorem toNat_append_bytes (hi lo : Byte) : (hi ++ lo).toNat = 256 * hi.toNat + lo.toNat := by
  rw [BitVec.toNat_append, ← Nat.shiftLeft_add_eq_or_of_lt lo.isLt, Nat.shiftLeft_eq, Nat.mul_comm]

theorem toNat_sample_aLow (a b : Byte) : (sample .aLow a b).toNat = a.toNat + 256 * b.toNat :=
  (toNat_append_bytes b a).trans (Nat.add_comm _ _)

theorem toNat_sample_aHigh (a b : Byte) : (sample .aHigh a b).toNat = 256 * a.toNat + b.toNat :=
  toNat_append_bytes a b

/-- A sample whose two bytes lie inside the stream (45_decoder R160, R161). -/
theorem getElem?_samples_of_lt (order : PixOrder) {bytes : List Byte} {i : Nat} (hi : 2 * i + 1 < bytes.length) :
    (samples order bytes)[i]? =
      some (sample order (bytes.getD (2 * i) 0#8) (bytes.getD (2 * i + 1) 0#8)) := by
  have even : 2 * i < bytes.length := by omega
  rw [getElem?_samples, List.getElem?_eq_getElem even, List.getElem?_eq_getElem hi, List.getD_eq_getElem _ _ even,
    List.getD_eq_getElem _ _ hi]
  rfl

/-- The bytes of sample `(k, c)` lie inside the stream of an image of `n` rows. -/
theorem sampleBytes_inside {k n c cols : Nat} (hk : k < n) (hc : c < cols) :
    2 * (k * cols + c) + 1 < 2 * (n * cols) := by
  have rows : (k + 1) * cols ≤ n * cols := Nat.mul_le_mul_right cols hk
  rw [Nat.succ_mul] at rows
  omega

theorem exec_decodePix_of_running {s : State} (h : Running 0x06#8 .deRun s) : exec .decodePix s = .next (deRun s) :=
  runOperation_runs (advance := fun s => if s.seq = .deRun then some (deRun s) else none) h.1 h.2.1 h.code _
    (if_pos h.place)

/-- The end of DECODE: `IMG` as the decode leaves it, the flags and the sequencer (45_decoder R164). -/
theorem deRun_eq {s : State} (hf : s.status.fatal = false) :
    deRun s = { s with
      img := (decodeRaw s.latch.crop s).img
      status := ⟨false, true, true, false⟩
      seq := .idle } :=
  complete_eq true (decodeRaw s.latch.crop s) (congrArg (Status.mk false true true) hf)

end Sys2Proof.Machine

open Sys2Proof Sys2Proof.Machine

/-- Settles O40: the sample's two byte orders as numbers, then the flipped row of the image and the two bytes of its
sample. -/
theorem decodedImageIndex : Obligations.DecodedImageIndex := by
  refine ⟨fun a b => ⟨toNat_sample_aLow a b, toNat_sample_aHigh a b, ?_⟩, fun order cols bytes hl =>
    ⟨length_decodeImage order cols hl, fun r c hr hc => ?_⟩⟩
  · have low := a.isLt
    have high := b.isLt
    rw [toNat_sample_aHigh, toNat_sample_aLow]
    omega
  · have pixel : (decodeImage order cols bytes)[r * cols + c]? = (samples order bytes)[(479 - r) * cols + c]? :=
      getElem?_decodeImage order cols hl hr hc
    have flipped : 479 - r < 480 := by omega
    rw [pixel, getElem?_samples_of_lt order (hl ▸ sampleBytes_inside flipped hc)]

/-- Settles O41: DECODE's one transition is the decode of `RAW` and the normal end. -/
theorem decodeOperation : Obligations.DecodeOperation := fun s h hw =>
  ⟨deRun s, exec_decodePix_of_running h, fun _ _ hr hc => imgWord_decodeRaw hw s.latch.crop hr hc,
    fun _ ha => imgWord_decodeRaw_beyond s.latch.crop s ha, deRun_eq h.2.1⟩
end

section
/-! PROOFS. The single commands (46_device_control R170 to R179): the frame each writes and where it goes on, and the
two-byte replies of PING and FWQUERY. -/

namespace Sys2Proof.Machine

-- The frame (46_device_control R170)

/-- A single command whose frame `i` the Transport takes: the frame is written, then the command ends or reads its
reply. -/
theorem exec_command_written {i k : Instr} {op : Byte} {s : State} (h : Running op .dcTx s) (hd : due i s)
    (hk : decode [op] = .ok k) (hl : linkOk s = true) :
    exec k s = .next (writeSuccess op .dcTx (written (encode i) true s)) := by
  have own : exec i s = exec k s := frameIsItsOperationsTransition i k s hd (by rw [h.code, hk])
  rw [← own, exec_due_taken hd hl, h.code, h.place]
  rfl

/-- HEATER or CHOP: which of its two frames is written is the latch's choice (46_device_control R178, R179). -/
theorem exec_switch_written {off on k : Instr} {op : Byte} {s : State} (h : Running op .dcTx s)
    (hoff : s.latch.on = false → due off s) (hon : s.latch.on = true → due on s) (hk : decode [op] = .ok k)
    (hl : linkOk s = true) :
    exec k s = .next (writeSuccess op .dcTx (written (if s.latch.on then encode on else encode off) true s)) := by
  cases hs : s.latch.on with
  | false => exact exec_command_written h (hoff hs) hk hl
  | true => exact exec_command_written h (hon hs) hk hl

-- The reply (46_device_control R171, R176)

theorem exec_ping_of_dcRx {s : State} (h : Running 0x10#8 .dcRx s) : exec .ping s = .next (pingRx s) :=
  runOperation_runs h.1 h.2.1 h.code _ (by rw [dcReply, h.place])

theorem exec_fwquery_of_dcRx {s : State} (h : Running 0x15#8 .dcRx s) : exec .fwquery s = .next (fwRx s) :=
  runOperation_runs h.1 h.2.1 h.code _ (by rw [dcReply, h.place])

theorem pingRx_short {s : State} (h : (readLink 2 s).length < 2) :
    pingRx s = raise .communicationTimeout 0#7 0#3 (receive 2 s) := if_pos h

theorem pingRx_full {s : State} {b0 b1 : Byte} (h : readLink 2 s = [b0, b1]) :
    pingRx s = complete (b1 == 0x4F#8) (receive 2 s) := by
  rw [pingRx, h]
  rfl

theorem fwRx_short {s : State} (h : (readLink 2 s).length < 2) :
    fwRx s = raise .communicationTimeout 0#7 0#3 (receive 2 s) := if_pos h

theorem fwRx_full {s : State} {major minor : Byte} (h : readLink 2 s = [major, minor]) :
    fwRx s = complete true (setFw major minor (receive 2 s)) := by
  rw [fwRx, h]
  rfl

/-- The decode of the firmware bytes, the major number as a natural number (46_device_control R177). -/
theorem fwDecode_eq (major minor : Byte) :
    fwDecode major minor = (if 8 ≤ major.toNat then 0x54#8 else 0x56#8,
      if 8 ≤ major.toNat then BitVec.ofNat 8 (major.toNat - 8) else major, minor) := by
  have unsigned : 8#8 ≤ major ↔ 8 ≤ major.toNat := BitVec.le_def
  rw [fwDecode]
  split_ifs with hle hn hn
  · have lowered : (major - 8#8).toNat = major.toNat - 8 := BitVec.toNat_sub_of_le hle
    rw [← lowered, BitVec.ofNat_toNat, BitVec.setWidth_eq]
  · exact absurd (unsigned.1 hle) hn
  · exact absurd (unsigned.2 hn) hle
  · rfl

end Sys2Proof.Machine

open Sys2Proof Sys2Proof.Machine

/-- Settles O43: the reply is stored before it is judged, and FWQUERY's compares the major number with 8 unsigned. -/
theorem twoByteReplies : Obligations.TwoByteReplies := by
  rintro s _ rfl
  rw [← receive_eq_received]
  refine ⟨fun h short => ?_, fun h b0 b1 full => ?_, fun h short => ?_, fun h major minor full => ?_⟩
  · rw [exec_ping_of_dcRx h, pingRx_short short]
  · rw [exec_ping_of_dcRx h, pingRx_full full]
  · rw [exec_fwquery_of_dcRx h, fwRx_short short]
  · rw [exec_fwquery_of_dcRx h, fwRx_full full, setFw, fwDecode_eq]

/-- Settles O42: each command's transition is that of its frame of 30_encoding R71; HEATER and CHOP have one frame for
each value of their operand. -/
theorem singleCommandsComplete : Obligations.SingleCommandsComplete := fun _ hl =>
  ⟨fun h => exec_command_written (i := .frameO) h h rfl hl,
    fun h => exec_command_written (i := .frameC) h h rfl hl,
    fun h => exec_command_written (i := .frameK) h (.inl h) rfl hl,
    fun h => exec_command_written (i := .frameA) h h rfl hl,
    fun h => exec_switch_written (off := .frameG0) (on := .frameG1) h (.intro h) (.intro h) rfl hl,
    fun h => exec_switch_written (off := .frameU0) (on := .frameU1) h (.intro h) (.intro h) rfl hl,
    fun h => exec_command_written (i := .frameE) h h rfl hl,
    fun h => exec_command_written (i := .frameV) h h rfl hl⟩
end

section
/-! PROOFS. How an operation ends (60_exceptions R204 to R206): every transition goes on, completes, or raises an error
that the table of R206 lists for the state it left; and the `CMD` write that starts nothing (R201). -/

namespace Sys2Proof.Machine

-- The `CMD` write that starts nothing (10_state R11; 60_exceptions R201)

theorem cmdIgnored_of_busy {s : State} (hb : s.status.busy = true) (hf : s.status.fatal = false) :
    cmdIgnored s = overrun s := by
  rw [cmdIgnored, if_neg (by simp [hf]), if_pos hb]

theorem cmdIgnored_of_fatal {s : State} (hf : s.status.fatal = true) : cmdIgnored s = s := if_pos hf

-- The three ends of a transition

/-- How a transition that leaves the state `q` of the sequencer ends: the operation goes on, or it completes and `ERR`
is as it was, or it ends by an error that R206 lists for `q` (60_exceptions R204, R205). -/
inductive Ending (q : Seq) (s : State) : State → Prop
  | goesOn {t : State} : t.status = s.status → Ending q s t
  | completes (ok : Bool) {u : State} : u.err = s.err → Ending q s (complete ok u)
  | raises {e : ErrKind} (b : BitVec 7) (a : BitVec 3) {u : State} :
      canRaise q e = true → u.status = s.status → Ending q s (raise e b a u)

/-- The error entry tells the error apart by `ERR` and `STATUS.FATAL` (60_exceptions R205). -/
theorem raise_reports {e : ErrKind} {b : BitVec 7} {a : BitVec 3} {s : State} (hf : s.status.fatal = false) :
    (raise e b a s).err.code = e.code ∧ (raise e b a s).err.cmdb = (raise e b a s).lastCmd ∧
      (raise e b a s).status.ok = false ∧ ((raise e b a s).status.fatal = true ↔ e = .transportFatal) := by
  refine ⟨rfl, rfl, rfl, ?_⟩
  simp [hf]

/-- An operation that has ended either left `ERR` clear or reported an error of the table. -/
theorem Ending.reported {q : Seq} {s t : State} (h : Ending q s t) (hb : s.status.busy = true)
    (hf : s.status.fatal = false) (he : s.err = ErrReg.none) (hend : t.status.busy = false) :
    t.err = ErrReg.none ∨
    ∃ e : ErrKind, canRaise q e = true ∧ t.err.code = e.code ∧ t.err.cmdb = t.lastCmd ∧ t.status.ok = false ∧
      (t.status.fatal = true ↔ e = .transportFatal) := by
  cases h with
  | goesOn hs => exact absurd (hb.symm.trans (hs ▸ hend)) (by decide)
  | completes ok hu => exact .inl (hu.trans he)
  | raises b a hc hs => exact .inr ⟨_, hc, raise_reports (hs ▸ hf)⟩

/-- The emission of a frame ends as what follows it does, whether the Transport takes the frame or not (41_dispatcher
R110). -/
theorem ending_emit {q : Seq} {s u : State} {c : Byte} {args : List Byte} {next fail : State → State}
    (hs : u.status = s.status) (he : u.err = s.err)
    (hn : ∀ v : State, v.status = s.status → v.err = s.err → Ending q s (next v))
    (hf : ∀ v : State, v.status = s.status → Ending q s (fail v)) : Ending q s (emit c args next fail u) := by
  have status : (emitted c args u).status = s.status := (emitted_status c args u).trans hs
  rcases emit_cases c args next fail u with ⟨-, h⟩ | ⟨-, h⟩ <;> rw [h]
  · exact hn _ status ((emitted_err c args u).trans he)
  · exact hf _ status

-- The ends of each state's transition (the rows of 60_exceptions R206)

theorem ckRun_ending (s : State) : Ending .ckRun s (ckRun s) := by
  rw [ckRun]
  split
  · exact .raises _ _ rfl rfl
  · exact .completes true (by simp)

theorem sdTx_ending (s : State) : Ending .sdTx s (sdTx s) := by
  rw [sdTx]
  split
  · exact .raises _ _ rfl rfl
  · split
    · exact .raises _ _ rfl rfl
    · refine ending_emit rfl rfl (fun v hs he => ?_) (fun v hs => .raises _ _ rfl hs)
      split
      exacts [.completes true he, .goesOn hs]

theorem sdRx_ending (s : State) : Ending .sdRx s (sdRx s) := by
  rw [sdRx]
  split
  exacts [.completes true rfl, .raises _ _ rfl rfl]

theorem dcTx_ending (c : Byte) (args : List Byte) (m : Nat) (s : State) : Ending .dcTx s (dcTx c args m s) := by
  refine ending_emit rfl rfl (fun v hs he => ?_) (fun v hs => .raises _ _ rfl hs)
  split
  exacts [.completes true he, .goesOn hs]

theorem pingRx_ending (s : State) : Ending .dcRx s (pingRx s) := by
  rw [pingRx]
  split
  exacts [.raises _ _ rfl rfl, .completes _ rfl]

theorem fwRx_ending (s : State) : Ending .dcRx s (fwRx s) := by
  rw [fwRx]
  split
  exacts [.raises _ _ rfl rfl, .completes true rfl]

theorem bnCheck_ending (s : State) : Ending .bnCheck s (bnCheck s) := by
  rw [bnCheck]
  split
  exacts [.raises _ _ rfl rfl, .goesOn rfl]

theorem bnRate_ending (r : Rate) (s : State) : Ending .bnRate s (bnRate r s) := by
  rw [bnRate]
  split
  exacts [.goesOn rfl, .raises _ _ rfl rfl]

/-- A reply that is not good ends nothing: SETBAUD goes on to the rollback (42_baud R124). -/
theorem bnReply_ending (s : State) : Ending .bnReply s (bnReply s) := by
  rw [bnReply]
  split_ifs
  all_goals exact .goesOn rfl

theorem bnConf_ending (s : State) : Ending .bnConf s (bnConf s) :=
  ending_emit rfl rfl (fun _ _ he => .completes true he) (fun _ hs => .raises _ _ rfl hs)

theorem bnRoll_ending (s : State) : Ending .bnRoll s (bnRoll s) := by
  rw [bnRoll]
  split
  exacts [.raises _ _ rfl rfl, .raises _ _ rfl rfl]

theorem exWait_ending (s : State) : Ending .exWait s (exWait s) := by
  by_cases hc : s.cancel = true
  · rw [exWait_cancelled hc]
    exact .raises _ _ rfl rfl
  by_cases hb : s.latch.readyMax.toNat ≤ s.polls.toNat
  · rw [exWait_exhausted hc hb]
    exact .raises _ _ rfl rfl
  · rw [exWait_reads hc hb]
    split
    exacts [.completes true rfl, .goesOn rfl]

theorem riSync_ending (s : State) : Ending .riSync s (riSync s) := by
  rw [riSync]
  split
  exacts [.raises _ _ rfl rfl, .goesOn rfl]

/-- A mismatch is logged and ends nothing (44_transfer R144). -/
theorem riBlk_ending (s : State) : Ending .riBlk s (riBlk s) := by
  rcases riBlk_cases s with ⟨-, -, h⟩ | ⟨-, -, h⟩ | ⟨-, -, h⟩ | ⟨-, -, h⟩ | ⟨-, -, -, h⟩ | ⟨-, -, -, h⟩ <;> rw [h]
  · exact .raises _ _ rfl rfl
  · exact .raises _ _ rfl (loseBlock_status s)
  · exact .raises _ _ rfl (by simp)
  all_goals exact .goesOn (by simp)

theorem riEpi_ending (s : State) : Ending .riEpi s (riEpi s) := by
  rw [riEpi]
  split
  exacts [.raises _ _ rfl rfl, .goesOn rfl]

/-- Every transition ends as the table of error exits allows (60_exceptions R206). -/
theorem transition_ending {s t : State} (h : Transition s t) : Ending s.seq s t := by
  cases h with
  | ckRun h => exact h.place ▸ ckRun_ending s
  | sdTx h => exact h.place ▸ sdTx_ending s
  | sdRx h => exact h.place ▸ sdRx_ending s
  | bnCheck h => exact h.place ▸ bnCheck_ending s
  | bnRate r h => exact h.place ▸ bnRate_ending r s
  | bnCmd _ h | bnTest h | exTx h | riX h | riAck h | riRetry h | riAbort h =>
    rw [h.place]
    exact ending_emit rfl rfl (fun _ hs _ => .goesOn hs) (fun _ hs => .raises _ _ rfl hs)
  | bnAck => exact .goesOn rfl
  | bnReply h => exact h.place ▸ bnReply_ending s
  | bnConf h => exact h.place ▸ bnConf_ending s
  | bnRoll h => exact h.place ▸ bnRoll_ending s
  | exWait h => exact h.place ▸ exWait_ending s
  | riSync h => exact h.place ▸ riSync_ending s
  | riBlk h => exact h.place ▸ riBlk_ending s
  | riEpi h => exact h.place ▸ riEpi_ending s
  | riDec | deRun => exact .completes true rfl
  | dcTx p h => exact h.place ▸ dcTx_ending p.1 p.2 _ s
  | pingRx h => exact h.place ▸ pingRx_ending s
  | fwRx h => exact h.place ▸ fwRx_ending s

end Sys2Proof.Machine

open Sys2Proof Sys2Proof.Machine

/-- Settles O15: on the engine's turn only a transition ends an operation, and it ends as the table allows. -/
theorem errorExitsAreTheTable : Obligations.ErrorExitsAreTheTable := by
  intro s t hI ht hb h hend
  have hf : s.status.fatal = false := by simpa [hb] using hI.busy_fatal
  rcases step_turn ht h with rfl | rfl | htr
  · exact absurd (hb.symm.trans hend) (by decide)
  · exact absurd (hb.symm.trans hend) (by decide)
  · exact (transition_ending htr).reported hb hf (hI.err_clear hb) hend

/-- Settles O12: the write reaches the port, which sets the sticky bit of `Overrun` if the engine is busy. -/
theorem cmdWriteThatStartsNothing : Obligations.CmdWriteThatStartsNothing := by
  intro s v rest hh
  refine ⟨fun hb hf => ?_, fun hf => ?_⟩
  · have notIdle : ¬ Idle s := fun hi => Bool.false_ne_true (hi.1.symm.trans hb)
    rw [step_of_cmd_ignored notIdle hh, cmdIgnored_of_busy (s := { s with host := rest }) hb hf]
    rfl
  · have notIdle : ¬ Idle s := fun hi => Bool.false_ne_true (hi.2.symm.trans hf)
    rw [step_of_cmd_ignored notIdle hh, cmdIgnored_of_fatal (s := { s with host := rest }) hf]

/-- Settles O14: the three definitions, their updates of the state written out, and the codes of R191. -/
theorem entryEndAndLogAreExact : Obligations.EntryEndAndLogAreExact :=
  ⟨fun _ _ _ _ => ⟨rfl, rfl⟩, fun ok s => complete_eq ok s rfl, rfl⟩
end
